-- ==== Sys2Proof/Word.lean ====
section
/-! DEFINITION. The word types that cross the block's boundary (spec 20_memory.md R62: every value
crosses as a whole word; 30_encoding.md R81, R83). -/

namespace Sys2Proof

/-- A 64-bit command word; bit 0 is the least significant (R6, R81). -/
abbrev Word64 := BitVec 64

/-- A 32-bit register or response data word (R22, R83). -/
abbrev Word32 := BitVec 32

end Sys2Proof
end

