-- ==== Sys2Proof/Syntax.lean ====
section
/-! DEFINITION. The thirteen commands of spec/opcode_table.json (30_encoding.md R82, R85), each operand
a bit vector of exactly its field's width, so that every term is a legal encoding (R84: values the
width admits and the source's range does not are legal encodings that fault when executed). -/

namespace Sys2Proof

/-- One command of the block. Operands stand in the field order of R82, most significant field first,
but for PROGRESS and CURRENT_COLOR, where the channel field is the more significant (R82, R89). -/
inductive Instr
  /-- NOP: format N (R200) -/
  | nop
  /-- REG_WRITE: format R (R201) -/
  | regWrite (idx : BitVec 4) (data : Word32)
  /-- REG_READ: format R, data bits reserved (R202) -/
  | regRead (idx : BitVec 4)
  /-- FROM_HSL: format H (R116) -/
  | fromHsl (hue : BitVec 9) (sat light : BitVec 7)
  /-- TO_HSL: format C (R118) -/
  | toHsl (rgb : BitVec 24)
  /-- INTERP: format I (R112) -/
  | interp (start stop factor : BitVec 8)
  /-- MIX_RGB: format M, bit 56 reserved (R120) -/
  | mixRgb (a b : BitVec 24) (factor : BitVec 8)
  /-- MIX_HSL: format M (R124) -/
  | mixHsl (wrap : BitVec 1) (a b : BitVec 24) (factor : BitVec 8)
  /-- RATIO_SAT: format X, `x` read as signed (R84, R151) -/
  | ratioSat (x : Word32)
  /-- RATIO_FIX: format B (R153) -/
  | ratioFix (ratio : BitVec 8)
  /-- PROGRESS: format T (R175) -/
  | progress (channel : BitVec 4) (time : Word32)
  /-- MIX_FACTOR: format B (R179) -/
  | mixFactor (ratio : BitVec 8)
  /-- CURRENT_COLOR: format T (R181) -/
  | currentColor (channel : BitVec 4) (time : Word32)
  deriving DecidableEq, Repr

end Sys2Proof
end

