-- ==== Sys2Proof/WellFormed.lean ====
section
/-! DEFINITION. Well-formedness. An `Instr` carries each operand in a bit vector of its field's width
(R82), so there is no ill-formed `Instr`. What can be ill-formed is a command as it is WRITTEN, with
its operands as numbers: "An operand that does not fit its field is an assembly error, not an
encoding" (30_encoding.md R89). `Asm` is the written command and `Asm.wellFormed` that check. -/

namespace Sys2Proof

/-- A command as written in the assembler syntax of R89, operands in the order they are written and
as the integers they denote. `mixHsl` with `wrap = true` is the mnemonic `MIX_HSL.W`. -/
inductive Asm
  | nop
  | regWrite (reg data : Int)
  | regRead (reg : Int)
  | fromHsl (hue sat light : Int)
  | toHsl (rgb : Int)
  | interp (start stop factor : Int)
  | mixRgb (a b factor : Int)
  | mixHsl (wrap : Bool) (a b factor : Int)
  | ratioSat (x : Int)
  | ratioFix (ratio : Int)
  | progress (time channel : Int)
  | mixFactor (ratio : Int)
  | currentColor (time channel : Int)
  deriving DecidableEq, Repr

/-- The integer fits an unsigned field of `bits` bits (R84). -/
def fitsUnsigned (bits : Nat) (v : Int) : Bool := decide (0 ≤ v) && decide (v < 2 ^ bits)

/-- The integer fits the field `x` of format X: RATIO_SAT's operand may be written as the 32-bit
pattern or as a signed decimal (R89: "signed; may be written as a negative decimal"). DESIGN CHOICE,
log 12: both spellings are accepted, -2^31 to 2^32 - 1. -/
def fitsSignedPattern (v : Int) : Bool := decide (-2147483648 ≤ v) && decide (v < 4294967296)

/-- Every written operand fits its field (R82, R89). -/
def Asm.wellFormed : Asm → Bool
  | .nop => true
  | .regWrite reg data => fitsUnsigned 4 reg && fitsUnsigned 32 data
  | .regRead reg => fitsUnsigned 4 reg
  | .fromHsl hue sat light => fitsUnsigned 9 hue && fitsUnsigned 7 sat && fitsUnsigned 7 light
  | .toHsl rgb => fitsUnsigned 24 rgb
  | .interp start stop factor =>
      fitsUnsigned 8 start && fitsUnsigned 8 stop && fitsUnsigned 8 factor
  | .mixRgb a b factor => fitsUnsigned 24 a && fitsUnsigned 24 b && fitsUnsigned 8 factor
  | .mixHsl _ a b factor => fitsUnsigned 24 a && fitsUnsigned 24 b && fitsUnsigned 8 factor
  | .ratioSat x => fitsSignedPattern x
  | .ratioFix ratio => fitsUnsigned 8 ratio
  | .progress time channel => fitsUnsigned 32 time && fitsUnsigned 4 channel
  | .mixFactor ratio => fitsUnsigned 8 ratio
  | .currentColor time channel => fitsUnsigned 32 time && fitsUnsigned 4 channel

end Sys2Proof
end

