-- ==== Sys2Proof/Decode.lean ====
section
/-! DEFINITION. The command decoder (30_encoding.md R81 to R87), total on every 64-bit word and
rejecting by name, and the encoder, written from the same tables. -/

namespace Sys2Proof

/-- Why a word is no command (R86): each is a fault cause of R220. -/
inductive DecodeError
  /-- opcode 0xD, 0xE or 0xF (R86 (a)) -/
  | illegalOpcode
  /-- a reserved payload bit of a legal opcode is 1 (R86 (b)) -/
  | reservedBits
  deriving DecidableEq, Repr

/-- The thirteen legal opcodes (R85). -/
inductive Opcode
  | nop | regWrite | regRead | fromHsl | toHsl | interp | mixRgb | mixHsl
  | ratioSat | ratioFix | progress | mixFactor | currentColor
  deriving DecidableEq, Repr

/-- The column "op" of R85. -/
def Opcode.code : Opcode → BitVec 4
  | .nop => 0x0
  | .regWrite => 0x1
  | .regRead => 0x2
  | .fromHsl => 0x3
  | .toHsl => 0x4
  | .interp => 0x5
  | .mixRgb => 0x6
  | .mixHsl => 0x7
  | .ratioSat => 0x8
  | .ratioFix => 0x9
  | .progress => 0xA
  | .mixFactor => 0xB
  | .currentColor => 0xC

/-- The row of R85 an opcode number selects; 0xD to 0xF select none. -/
def Opcode.ofCode (op : BitVec 4) : Option Opcode :=
  match op.toNat with
  | 0 => some .nop
  | 1 => some .regWrite
  | 2 => some .regRead
  | 3 => some .fromHsl
  | 4 => some .toHsl
  | 5 => some .interp
  | 6 => some .mixRgb
  | 7 => some .mixHsl
  | 8 => some .ratioSat
  | 9 => some .ratioFix
  | 10 => some .progress
  | 11 => some .mixFactor
  | 12 => some .currentColor
  | _ => none

/-- The column "mask" of R85: the opcode and every reserved bit. -/
def Opcode.mask : Opcode → Word64
  | .nop => 0xFFFFFFFFFFFFFFFF
  | .regWrite => 0xFFFFFFF000000000
  | .regRead => 0xFFFFFFF0FFFFFFFF
  | .fromHsl => 0xFFFFFFFFFE008080
  | .toHsl => 0xFFFFFFFFFF000000
  | .interp => 0xFFFFFFFFFF000000
  | .mixRgb => 0xFF00000000000000
  | .mixHsl => 0xFE00000000000000
  | .ratioSat => 0xFFFFFFFF00000000
  | .ratioFix => 0xFFFFFFFFFFFFFF00
  | .progress => 0xFFFFFFF000000000
  | .mixFactor => 0xFFFFFFFFFFFFFF00
  | .currentColor => 0xFFFFFFF000000000

/-- The column "match" of R85. -/
def Opcode.pattern : Opcode → Word64
  | .nop => 0x0000000000000000
  | .regWrite => 0x1000000000000000
  | .regRead => 0x2000000000000000
  | .fromHsl => 0x3000000000000000
  | .toHsl => 0x4000000000000000
  | .interp => 0x5000000000000000
  | .mixRgb => 0x6000000000000000
  | .mixHsl => 0x7000000000000000
  | .ratioSat => 0x8000000000000000
  | .ratioFix => 0x9000000000000000
  | .progress => 0xA000000000000000
  | .mixFactor => 0xB000000000000000
  | .currentColor => 0xC000000000000000

/-- The fields of the opcode's format, read from the word as R82 places them. -/
def Opcode.fields (o : Opcode) (w : Word64) : Instr :=
  match o with
  | .nop => .nop
  | .regWrite => .regWrite (w.extractLsb' 32 4) (w.extractLsb' 0 32)
  | .regRead => .regRead (w.extractLsb' 32 4)
  | .fromHsl => .fromHsl (w.extractLsb' 16 9) (w.extractLsb' 8 7) (w.extractLsb' 0 7)
  | .toHsl => .toHsl (w.extractLsb' 0 24)
  | .interp => .interp (w.extractLsb' 16 8) (w.extractLsb' 8 8) (w.extractLsb' 0 8)
  | .mixRgb => .mixRgb (w.extractLsb' 32 24) (w.extractLsb' 8 24) (w.extractLsb' 0 8)
  | .mixHsl =>
      .mixHsl (w.extractLsb' 56 1) (w.extractLsb' 32 24) (w.extractLsb' 8 24) (w.extractLsb' 0 8)
  | .ratioSat => .ratioSat (w.extractLsb' 0 32)
  | .ratioFix => .ratioFix (w.extractLsb' 0 8)
  | .progress => .progress (w.extractLsb' 32 4) (w.extractLsb' 0 32)
  | .mixFactor => .mixFactor (w.extractLsb' 0 8)
  | .currentColor => .currentColor (w.extractLsb' 32 4) (w.extractLsb' 0 32)

/-- `decode(cmd)` of R87, its checks in that rule's order. -/
def decode (w : Word64) : Except DecodeError Instr :=
  match Opcode.ofCode (w.extractLsb' 60 4) with
  | none => .error .illegalOpcode
  | some o => if w &&& o.mask = o.pattern then .ok (o.fields w) else .error .reservedBits

/-- The opcode of a command (R85). -/
def Instr.opcode : Instr → Opcode
  | .nop => .nop
  | .regWrite _ _ => .regWrite
  | .regRead _ => .regRead
  | .fromHsl _ _ _ => .fromHsl
  | .toHsl _ => .toHsl
  | .interp _ _ _ => .interp
  | .mixRgb _ _ _ => .mixRgb
  | .mixHsl _ _ _ _ => .mixHsl
  | .ratioSat _ => .ratioSat
  | .ratioFix _ => .ratioFix
  | .progress _ _ => .progress
  | .mixFactor _ => .mixFactor
  | .currentColor _ _ => .currentColor

/-- The word of `width` bits that holds `v` from bit `lsb` up and 0 elsewhere (R6: a field occupies
exactly its bits). -/
def putField (width : Nat) {n : Nat} (v : BitVec n) (lsb : Nat) : BitVec width :=
  v.setWidth width <<< lsb

/-- The command word of a command: the opcode in [63:60] and the fields of its format where R82 places
them, every other bit 0 (R6, R82, R85). -/
def encode : Instr → Word64
  | .nop => putField 64 0x0#4 60
  | .regWrite idx data => putField 64 0x1#4 60 ||| putField 64 idx 32 ||| putField 64 data 0
  | .regRead idx => putField 64 0x2#4 60 ||| putField 64 idx 32
  | .fromHsl hue sat light =>
      putField 64 0x3#4 60 ||| putField 64 hue 16 ||| putField 64 sat 8 ||| putField 64 light 0
  | .toHsl rgb => putField 64 0x4#4 60 ||| putField 64 rgb 0
  | .interp start stop factor =>
      putField 64 0x5#4 60 ||| putField 64 start 16 ||| putField 64 stop 8 ||| putField 64 factor 0
  | .mixRgb a b factor =>
      putField 64 0x6#4 60 ||| putField 64 a 32 ||| putField 64 b 8 ||| putField 64 factor 0
  | .mixHsl wrap a b factor =>
      putField 64 0x7#4 60 ||| putField 64 wrap 56 ||| putField 64 a 32 ||| putField 64 b 8 |||
        putField 64 factor 0
  | .ratioSat x => putField 64 0x8#4 60 ||| putField 64 x 0
  | .ratioFix ratio => putField 64 0x9#4 60 ||| putField 64 ratio 0
  | .progress channel time =>
      putField 64 0xA#4 60 ||| putField 64 channel 32 ||| putField 64 time 0
  | .mixFactor ratio => putField 64 0xB#4 60 ||| putField 64 ratio 0
  | .currentColor channel time =>
      putField 64 0xC#4 60 ||| putField 64 channel 32 ||| putField 64 time 0

/-- The command that a well-formed written command stands for (R82, R84): each number becomes the bits
of its field. A number that does not fit is dropped bits, so this is used behind `Asm.wellFormed`
only (`assemble`). -/
def Asm.toInstr : Asm → Instr
  | .nop => .nop
  | .regWrite reg data => .regWrite (BitVec.ofInt 4 reg) (BitVec.ofInt 32 data)
  | .regRead reg => .regRead (BitVec.ofInt 4 reg)
  | .fromHsl hue sat light =>
      .fromHsl (BitVec.ofInt 9 hue) (BitVec.ofInt 7 sat) (BitVec.ofInt 7 light)
  | .toHsl rgb => .toHsl (BitVec.ofInt 24 rgb)
  | .interp start stop factor =>
      .interp (BitVec.ofInt 8 start) (BitVec.ofInt 8 stop) (BitVec.ofInt 8 factor)
  | .mixRgb a b factor => .mixRgb (BitVec.ofInt 24 a) (BitVec.ofInt 24 b) (BitVec.ofInt 8 factor)
  | .mixHsl wrap a b factor =>
      .mixHsl (BitVec.ofBool wrap) (BitVec.ofInt 24 a) (BitVec.ofInt 24 b) (BitVec.ofInt 8 factor)
  | .ratioSat x => .ratioSat (BitVec.ofInt 32 x)
  | .ratioFix ratio => .ratioFix (BitVec.ofInt 8 ratio)
  | .progress time channel => .progress (BitVec.ofInt 4 channel) (BitVec.ofInt 32 time)
  | .mixFactor ratio => .mixFactor (BitVec.ofInt 8 ratio)
  | .currentColor time channel => .currentColor (BitVec.ofInt 4 channel) (BitVec.ofInt 32 time)

/-- The word of a written command, or none where an operand does not fit its field: "an assembly
error, not an encoding" (R89). -/
def assemble (a : Asm) : Option Word64 :=
  if a.wellFormed then some (encode a.toInstr) else none

/-- The command the decoder reads from a table row's bits `w`, `nbits` of them, the bits above being
0. A command is one whole 64-bit word (R62, R81), numbered as the table numbers it. -/
def decodeTableWord (nbits w : Nat) : Option Instr :=
  match decode (BitVec.ofNat 64 (w % 2 ^ nbits)) with
  | .ok i => some i
  | .error _ => none

end Sys2Proof
end

