-- ==== Sys2Proof/Config.lean ====
section
/-! DEFINITION. What an implementation fixes and the spec keeps as a named parameter (00_scope.md R5),
and the one value the spec leaves open. The values the spec decides for the two parameters stand in
Machine/Params.lean, where a repair can reach them. -/

namespace Sys2Proof

/-- `CONV_ROUND` (R5, R9, D15): how the two colour-space conversions round an exact rational.
Log 1. -/
inductive ConvRound
  /-- `floor (q + 1/2)`, the decided value -/
  | halfUp
  /-- `floor q`, the alternative -/
  | trunc
  deriving DecidableEq, Repr

/-- `HUE_WRAP_MODE` (R5, R122, D18): what `wrap = 1` means to the hue interpolator. Log 2. -/
inductive HueWrapMode
  /-- `wrap = 1` goes the shorter way round through 0/360, the decided value -/
  | shortestPath
  /-- `wrap` has no effect, the alternative -/
  | ignored
  deriving DecidableEq, Repr

/-- FREE VALUE (DESIGN CHOICE, log 6): the colour CURRENT_COLOR would answer for a RAMP_TYPE register
with TYPE = 3. R29 keeps every reachable state out of that case and R180 gives it no colour, so it is
an uninterpreted function of all that the response may depend on (R38, R25): the time, the channel and
the register words but for CHAN_MASK, which no evaluation reads. -/
opaque Config.reservedRampColor : (time : Word32) → (channel : BitVec 4) → (registers : List Word32) → BitVec 24

end Sys2Proof
end

