-- ==== Sys2Proof/Machine/State.lean ====
section
/-! DEFINITION. The block's state (10_state.md R20 to R34), the two lists that stand for its command
port, the state after reset (70_reset_and_hazards.md R251), and the reasons a step could stop. -/

namespace Sys2Proof.Machine

/-- The operating mode (R21). -/
inductive Mode
  | run
  | faulted
  deriving DecidableEq, Repr

/-- The fault causes of 60_exceptions.md R220. -/
inductive Cause
  | illegalOpcode
  | reservedBits
  | badRegister
  | noActiveCue
  | illegalValue
  | zeroDivisor
  | zeroDuration
  | channelRange
  | hslRange
  deriving DecidableEq, Repr

/-- The response status of 30_encoding.md R83; status 3 is never produced and has no name. -/
inductive RespStatus
  /-- the command executed -/
  | ok
  /-- this command raised a contract-violation fault -/
  | fault
  /-- the block was already in FAULTED mode and did not execute the command -/
  | faulted
  deriving DecidableEq, Repr

/-- One response: a status and a 32-bit data word (R80, R83). -/
structure Response where
  status : RespStatus
  data : Word32
  deriving DecidableEq, Repr

/-- What the host can do to the block (R80, R250): present a command word, or reset the block between
commands. -/
inductive HostAction
  | command (w : Word64)
  | reset
  deriving DecidableEq, Repr

/-- The eight Cue-field registers, 32 bits each as read and written (R22, R25 to R32). -/
structure Cue where
  /-- 0x2 CHAN_MASK (R25) -/
  chanMask : Word32
  /-- 0x3 REVERSE (R26) -/
  reverse : Word32
  /-- 0x4 TIME_DIVISOR (R27) -/
  timeDivisor : Word32
  /-- 0x5 DURATION_MS (R28) -/
  durationMs : Word32
  /-- 0x6 RAMP_TYPE (R29) -/
  rampType : Word32
  /-- 0x7 RAMP_RATIO (R30) -/
  rampRatio : Word32
  /-- 0x8 START_COLOR (R31) -/
  startColor : Word32
  /-- 0x9 END_COLOR (R32) -/
  endColor : Word32
  deriving DecidableEq, Repr

/-- DEFAULT_CUE (R34). The source fixes the mask and the two colours; the other five values are the
spec's decision D9 (log 13). -/
def Cue.default : Cue where
  chanMask := 0xFFF
  reverse := 0
  timeDivisor := 1
  durationMs := 1
  rampType := 0
  rampRatio := 0
  startColor := 0
  endColor := 0

/-- The whole state. The first four fields are the block's entire architectural state (R20); the last
two are the model's own record of the command port (R80, R66, R258; DESIGN CHOICE, log 3). -/
structure State where
  /-- the operating mode (R21) -/
  mode : Mode
  /-- register 0x0 CTRL (R23) -/
  ctrl : Word32
  /-- register 0x1 STATUS (R24) -/
  status : Word32
  /-- registers 0x2 to 0x9, the Cue fields (R25 to R32) -/
  cue : Cue
  /-- the host actions not yet taken, in the order presented (R66, R80) -/
  pending : List HostAction
  /-- the responses given so far, oldest first (R80, R258) -/
  responses : List Response
  deriving DecidableEq, Repr

/-- The machine right after reset (R251), with nothing presented and nothing answered yet (log 3). -/
def State.reset : State where
  mode := .run
  ctrl := 0
  status := 0
  cue := Cue.default
  pending := []
  responses := []

/-- Reasons a step could stop the machine: there are none. A contract violation is a fault of the
BLOCK, whose entry R223 describes, so the step takes it as a next state (log 8). -/
inductive Fault : Type
  deriving DecidableEq, Repr

/-- Reasons the model could refuse an instruction. -/
inductive Refusal
  /-- raised by an arm of `exec` for an instruction that has no meaning in the model; no arm raises it.
  Safe. -/
  | notModelled (mnemonic : String)
  deriving DecidableEq, Repr

/-- What one step of the block answers. -/
abbrev StepOutcome := Host.Outcome State Fault Refusal

end Sys2Proof.Machine
end

