-- ==== Sys2Proof/Machine/Flags.lean ====
section
/-! DEFINITION. The block has no condition flags (10_state.md R37); its only status bits are the fields
of STATUS (R24). This file holds the cause codes, the STATUS word a fault writes, and the fields read
back. -/

namespace Sys2Proof.Machine

/-- The cause code of R220. -/
def Cause.code : Cause → BitVec 4
  | .illegalOpcode => 1
  | .reservedBits => 2
  | .badRegister => 3
  | .noActiveCue => 4
  | .illegalValue => 5
  | .zeroDivisor => 6
  | .zeroDuration => 7
  | .channelRange => 8
  | .hslRange => 9

/-- The STATUS word a fault of cause `c` leaves: FAULT = 1 in bit 0, CAUSE in bits [7:4], every
reserved bit 0 (R24, R223). -/
def faultStatus (c : Cause) : Word32 := putField 32 c.code 4 ||| putField 32 1#1 0

/-- STATUS.FAULT (R24). -/
def State.statusFault (s : State) : BitVec 1 := s.status.extractLsb' 0 1

/-- STATUS.CAUSE (R24). -/
def State.statusCause (s : State) : BitVec 4 := s.status.extractLsb' 4 4

/-- The number of a response status on the port (R83). -/
def RespStatus.code : RespStatus → BitVec 2
  | .ok => 0
  | .fault => 1
  | .faulted => 2

end Sys2Proof.Machine
end

