-- ==== Sys2Proof/Machine/Operands.lean ====
section
/-! DEFINITION. Operand forms: colours and HSL triples and their packing (00_scope.md R11), the signed
operand (30_encoding.md R84), the fields of the registers (10_state.md R23 to R32), and the operand
ranges that fault when executed (R86 (c)). -/

namespace Sys2Proof.Machine

/-- A Color: three 8-bit channels (R11). -/
structure Color where
  r : BitVec 8
  g : BitVec 8
  b : BitVec 8
  deriving DecidableEq, Repr

/-- An HSL triple: hue in degrees, saturation and lightness in percent (R11). -/
structure Hsl where
  h : Nat
  s : Nat
  l : Nat
  deriving DecidableEq, Repr

/-- Black, which is also the "off" colour (R180, D11; log 14). -/
def Color.black : Color := ⟨0, 0, 0⟩

/-- `{R, G, B}` (R11). -/
def Color.pack (c : Color) : BitVec 24 := 
  putField 24 c.r 16 ||| putField 24 c.g 8 ||| putField 24 c.b 0

/-- A packed colour's channels: R in [23:16], G in [15:8], B in [7:0] (R11). -/
def Color.unpack (w : BitVec 24) : Color :=
  ⟨w.extractLsb' 16 8, w.extractLsb' 8 8, w.extractLsb' 0 8⟩

/-- A colour as a response data word, [31:24] = 0 (R83). -/
def Color.word (c : Color) : Word32 := putField 32 c.pack 0

/-- An HSL triple as a response data word: H in [24:16], S in [14:8], L in [6:0] (R11, R83). -/
def Hsl.word (t : Hsl) : Word32 :=
  putField 32 (BitVec.ofNat 9 t.h) 16 ||| putField 32 (BitVec.ofNat 7 t.s) 8 |||
    putField 32 (BitVec.ofNat 7 t.l) 0

/-- A Ratio numerator, or another 8-bit result, as a response data word (R83). -/
def byteWord (n : Nat) : Word32 := putField 32 (BitVec.ofNat 8 n) 0

/-- The operands of FROM_HSL lie in the source's ranges (R116). -/
def hslInRange (hue : BitVec 9) (sat light : BitVec 7) : Bool :=
  decide (hue.toNat ≤ 360) && decide (sat.toNat ≤ 100) && decide (light.toNat ≤ 100)

/-- The channel operand lies in 0..11 (R175, R181). -/
def channelInRange (ch : BitVec 4) : Bool := decide (ch.toNat < 12)

/-- CTRL.ACTIVE (R23). -/
def State.active (s : State) : Bool := s.ctrl.getLsbD 0

/-- REVERSE.REV (R26). -/
def State.rev (s : State) : Bool := s.cue.reverse.getLsbD 0

/-- TIME_DIVISOR.TD (R27). -/
def State.td (s : State) : Nat := (s.cue.timeDivisor.extractLsb' 0 16).toNat

/-- DURATION_MS.DUR (R28). -/
def State.dur (s : State) : Nat := (s.cue.durationMs.extractLsb' 0 16).toNat

/-- RAMP_TYPE.TYPE (R29). -/
def State.rampKind (s : State) : BitVec 2 := s.cue.rampType.extractLsb' 0 2

/-- RAMP_TYPE.WRAP (R29). -/
def State.rampWrap (s : State) : Bool := s.cue.rampType.getLsbD 2

/-- RAMP_RATIO.RATIO (R30). -/
def State.rr (s : State) : Nat := (s.cue.rampRatio.extractLsb' 0 8).toNat

/-- The colour in START_COLOR (R31). -/
def State.startColor (s : State) : Color := Color.unpack (s.cue.startColor.extractLsb' 0 24)

/-- The colour in END_COLOR (R32). -/
def State.endColor (s : State) : Color := Color.unpack (s.cue.endColor.extractLsb' 0 24)

/-- The ten register words, in index order (R22). -/
def State.registers (s : State) : List Word32 :=
  [s.ctrl, s.status, s.cue.chanMask, s.cue.reverse, s.cue.timeDivisor, s.cue.durationMs,
    s.cue.rampType, s.cue.rampRatio, s.cue.startColor, s.cue.endColor]

/-- The register words an evaluation may read: all but CHAN_MASK (R25, R38). -/
def State.evalRegisters (s : State) : List Word32 :=
  [s.ctrl, s.status, s.cue.reverse, s.cue.timeDivisor, s.cue.durationMs, s.cue.rampType,
    s.cue.rampRatio, s.cue.startColor, s.cue.endColor]

end Sys2Proof.Machine
end

