-- ==== Sys2Proof/Machine/Ops.lean ====
section
/-! DEFINITION. The shared operations: answering a command, the register file, taking a fault and
leaving FAULTED mode, and taking a host action off the port. -/

namespace Sys2Proof.Machine

/-! ### Answering -/

/-- `respond(status, data)` (R8, R80): the command ends with this response. -/
def State.respond (s : State) (status : RespStatus) (data : Word32) : State :=
  { s with responses := s.responses ++ [⟨status, data⟩] }

/-- The command executed; `data` is its result (R83). -/
def State.ok (s : State) (data : Word32) : State := s.respond .ok data

/-! ### Taking a fault, and leaving FAULTED mode -/

/-- `raise Fault(c)` in RUN mode (R223): the mode becomes FAULTED, STATUS takes FAULT = 1 and the
cause, the response is FAULT with the cause; nothing else changes. -/
def State.raise (s : State) (c : Cause) : State :=
  ({ s with mode := .faulted, status := faultStatus c }).respond .fault (c.code.setWidth 32)

/-- A command answered in FAULTED mode without effect (R225): status FAULTED, data the first cause. -/
def State.answerFaulted (s : State) : State := s.respond .faulted (s.statusCause.setWidth 32)

/-- Reset by the host, the only way out of FAULTED (R226, R250): every piece of the block's state takes
its reset value and there is no response. The host's remaining actions and the responses it has already
had are no state of the block and stay (log 5). -/
def State.hostReset (s : State) : State :=
  { State.reset with pending := s.pending, responses := s.responses }

/-- The mode check every command but REG_READ makes before its own checks (R225): `body` is what the
command does in RUN mode. -/
def State.inRun (s : State) (body : State) : StepOutcome :=
  .next (match s.mode with
    | .run => body
    | .faulted => s.answerFaulted)

/-- The fault cause of a word that does not decode (R86, R220). -/
def decodeCause : DecodeError → Cause
  | .illegalOpcode => .illegalOpcode
  | .reservedBits => .reservedBits

/-- A word that does not decode: a fault in RUN mode (R86, R87, R223), no new fault in FAULTED mode
(R87, R225). -/
def State.rejectWord (s : State) (e : DecodeError) : StepOutcome := s.inRun (s.raise (decodeCause e))

/-! ### The register file (10_state.md R22) -/

/-- The ten implemented registers (R22, R61). -/
inductive RegName
  | ctrl | status | chanMask | reverse | timeDivisor | durationMs | rampType | rampRatio
  | startColor | endColor
  deriving DecidableEq, Repr

/-- The register at an index; 0xA to 0xF are reserved (R33, R61). -/
def RegName.ofIndex (idx : BitVec 4) : Option RegName :=
  match idx.toNat with
  | 0 => some .ctrl
  | 1 => some .status
  | 2 => some .chanMask
  | 3 => some .reverse
  | 4 => some .timeDivisor
  | 5 => some .durationMs
  | 6 => some .rampType
  | 7 => some .rampRatio
  | 8 => some .startColor
  | 9 => some .endColor
  | _ => none

/-- The index of a register (R22, R61). -/
def RegName.index : RegName → BitVec 4
  | .ctrl => 0x0
  | .status => 0x1
  | .chanMask => 0x2
  | .reverse => 0x3
  | .timeDivisor => 0x4
  | .durationMs => 0x5
  | .rampType => 0x6
  | .rampRatio => 0x7
  | .startColor => 0x8
  | .endColor => 0x9

/-- The bits of a register that a field occupies; every other bit is reserved (R22). For the writable
registers this is FIELDMASK of R201. -/
def RegName.fieldMask : RegName → Word32
  | .ctrl => 0x1
  | .status => 0xF1
  | .chanMask => 0xFFF
  | .reverse => 0x1
  | .timeDivisor => 0xFFFF
  | .durationMs => 0xFFFF
  | .rampType => 0x7
  | .rampRatio => 0xFF
  | .startColor => 0xFFFFFF
  | .endColor => 0xFFFFFF

/-- The stored word of a register. -/
def State.stored (s : State) : RegName → Word32
  | .ctrl => s.ctrl
  | .status => s.status
  | .chanMask => s.cue.chanMask
  | .reverse => s.cue.reverse
  | .timeDivisor => s.cue.timeDivisor
  | .durationMs => s.cue.durationMs
  | .rampType => s.cue.rampType
  | .rampRatio => s.cue.rampRatio
  | .startColor => s.cue.startColor
  | .endColor => s.cue.endColor

/-- The value a register reads as: its fields, every reserved bit 0 (R22, R36, R202; log 7). -/
def State.readReg (s : State) (r : RegName) : Word32 := s.stored r &&& r.fieldMask

/-- `reg[r] <- v` (R8, R64): all 32 bits of one register, and nothing else. -/
def State.setReg (s : State) (r : RegName) (v : Word32) : State :=
  match r with
  | .ctrl => { s with ctrl := v }
  | .status => { s with status := v }
  | .chanMask => { s with cue := { s.cue with chanMask := v } }
  | .reverse => { s with cue := { s.cue with reverse := v } }
  | .timeDivisor => { s with cue := { s.cue with timeDivisor := v } }
  | .durationMs => { s with cue := { s.cue with durationMs := v } }
  | .rampType => { s with cue := { s.cue with rampType := v } }
  | .rampRatio => { s with cue := { s.cue with rampRatio := v } }
  | .startColor => { s with cue := { s.cue with startColor := v } }
  | .endColor => { s with cue := { s.cue with endColor := v } }

/-- The four legal values of RAMP_TYPE bits [2:0] (R29). -/
def legalRamp (v : Word32) : Bool :=
  match (v.extractLsb' 0 3).toNat with
  | 0 | 1 | 2 | 6 => true
  | _ => false

/-- The fault a REG_WRITE of `v` to register `r` raises, if any, its checks in the order of R201 and
R222 (those after BAD_REGISTER for a reserved index). -/
def State.writeFault (s : State) (r : RegName) (v : Word32) : Option Cause :=
  if r = .status then some .badRegister
  else if r ≠ .ctrl ∧ s.active = false then some .noActiveCue
  else if v &&& ~~~ r.fieldMask ≠ 0 then some .illegalValue
  else if r = .rampType ∧ legalRamp v = false then some .illegalValue
  else if r = .timeDivisor ∧ v = 0 then some .zeroDivisor
  else if r = .durationMs ∧ v = 0 then some .zeroDuration
  else none

/-- The effect of a REG_WRITE that passed its checks (R201): a CTRL write with ACTIVE = 0 reloads the
default Cue (R23, R34), every other write replaces one register. -/
def State.writeReg (s : State) (r : RegName) (v : Word32) : State :=
  if r = .ctrl then
    if v.getLsbD 0 then { s with ctrl := 1 } else { s with ctrl := 0, cue := Cue.default }
  else s.setReg r v

/-! ### The command port -/

/-- The host presents one more action, after those already presented (R66, R80). -/
def State.present (s : State) (a : HostAction) : State := { s with pending := s.pending ++ [a] }

/-- The host's next action and the state in which the block takes it, with the action off the port; none
when nothing is presented (R66, R80). -/
def State.accept (s : State) : Option (HostAction × State) :=
  match s.pending with
  | [] => none
  | a :: rest => some (a, { s with pending := rest })

/-- The same state with a command at the head of the port, so that it is the next one taken. -/
def State.presentFirst (s : State) (w : Word64) : State :=
  { s with pending := .command w :: s.pending }

end Sys2Proof.Machine
end

