-- ==== Sys2Proof/Machine/Access.lean ====
section
/-! DEFINITION. Register access and NOP (44_access.md). -/

namespace Sys2Proof.Machine

/-- NOP (R200). -/
def execNop (s : State) : StepOutcome := s.inRun (s.ok 0)

/-- REG_WRITE (R201): the checks in that rule's order, then the write; a faulting write changes no
register. -/
def execRegWrite (idx : BitVec 4) (data : Word32) (s : State) : StepOutcome :=
  s.inRun (match RegName.ofIndex idx with
    | none => s.raise .badRegister
    | some r =>
      match s.writeFault r data with
      | some c => s.raise c
      | none => (s.writeReg r data).ok 0)

/-- REG_READ (R202), the one command executed in FAULTED mode (R225): an implemented index answers the
register's value in either mode, a reserved one faults in RUN mode and is answered FAULTED in FAULTED
mode. -/
def execRegRead (idx : BitVec 4) (s : State) : StepOutcome :=
  match RegName.ofIndex idx with
  | some r => .next (s.ok (s.readReg r))
  | none => s.inRun (s.raise .badRegister)

end Sys2Proof.Machine
end

