-- ==== Sys2Proof/Machine/Arith.lean ====
section
/-! DEFINITION. The exact integer arithmetic and the rounding primitives of 00_scope.md R7 and R9. -/

namespace Sys2Proof.Machine

/-- `|a - b|` of two naturals (R7). -/
def absDiff (a b : Nat) : Nat := (a - b) + (b - a)

/-- `rdiv(n, d)` of R9: the source's "+divisor/2 before dividing" rounding. -/
def rdiv (n d : Nat) : Nat := (n + d / 2) / d

/-- `roundc(q)` of R9 for the exact non-negative rational `q = n / d`, `d > 0`: `floor (q + 1/2)` is
`(2 n + d) div (2 d)` under `HalfUp`, and `floor q` is `n div d` under `Trunc`. -/
def roundc (mode : ConvRound) (n d : Nat) : Nat :=
  match mode with
  | .halfUp => (2 * n + d) / (2 * d)
  | .trunc => n / d

end Sys2Proof.Machine
end

