-- ==== Sys2Proof/Machine/Params.lean ====
section
/-! DEFINITION. The values the spec decides for its two named parameters (00_scope.md R5). A claim that
depends on one of them names it as a premise (`convRound = .halfUp`), as D15 and D18 ask. -/

namespace Sys2Proof.Machine

/-- `CONV_ROUND` of this block: the spec's decided value (R5, D15; log 1). -/
def convRound : ConvRound := .halfUp

/-- `HUE_WRAP_MODE` of this block: the spec's decided value (R5, R122, D18; log 2). -/
def hueWrapMode : HueWrapMode := .shortestPath

end Sys2Proof.Machine
end

