-- ==== Sys2Proof/Machine/Color.lean ====
section
/-! DEFINITION. The colour unit (41_color.md): the 8-bit interpolator, the two colour-space converters,
and the RGB and HSL mixers. Its functions are pure (R110). -/

namespace Sys2Proof.Machine

/-! ### The interpolator -/

/-- `interp8(s, e, f)` of R111; the divisor is 255, not 256 (C1). -/
def interp8 (s e f : Nat) : Nat :=
  let scaled := absDiff e s * f / 255
  if e > s then s + scaled else s - scaled

/-! ### HSL to RGB -/

/-- The row of R115 for sextant `k`, given the numerators standing for C and X. -/
def sextant (k c x : Nat) : Nat × Nat × Nat :=
  match k with
  | 0 => (c, x, 0)
  | 1 => (x, c, 0)
  | 2 => (0, c, x)
  | 3 => (0, x, c)
  | 4 => (x, 0, c)
  | _ => (c, 0, x)

/-- `hsl_to_rgb(H, S, L)` of R114, as that rule's exact integer datapath: every channel is the rational
`255 * (12000 L - 60 Cn + c1n) / 1200000`, rounded once by `roundc` (log 11). -/
def hslToRgb (mode : ConvRound) (H S L : Nat) : Color :=
  let h := H % 360
  let k := h / 60
  let r := h % 60
  let Cn := (100 - absDiff (2 * L) 100) * S
  let fxn := if k % 2 = 0 then r else 60 - r
  let c1n := sextant k (120 * Cn) (2 * Cn * fxn)
  let channel := fun c => BitVec.ofNat 8 (roundc mode (255 * (12000 * L + c - 60 * Cn)) 1200000)
  ⟨channel c1n.1, channel c1n.2.1, channel c1n.2.2⟩

/-! ### RGB to HSL -/

/-- The exact hue of R117 times `d`, where `M` is the largest channel and `d` the largest less the
smallest: the rational hue is `hueNum R G B M d / d`. -/
def hueNum (R G B M d : Int) : Int :=
  if M = R then
    if 60 * (G - B) < 0 then 60 * (G - B) + 360 * d else 60 * (G - B)
  else if M = G then 60 * (B - R) + 120 * d
  else 60 * (R - G) + 240 * d

/-- `rgb_to_hsl(R, G, B)` of R117. -/
def rgbToHsl (mode : ConvRound) (c : Color) : Hsl :=
  let R := c.r.toNat
  let G := c.g.toNat
  let B := c.b.toNat
  let M := max R (max G B)
  let n := min R (min G B)
  let d := M - n
  let L := roundc mode (100 * (M + n)) 510
  if d = 0 then ⟨0, 0, L⟩
  else
    let S := roundc mode (100 * d) (255 - absDiff (M + n) 255)
    let H := roundc mode (hueNum R G B M d).toNat d % 360
    ⟨H, S, L⟩

/-! ### The mixers -/

/-- `mix_rgb(a, b, f)` of R119: three independent lanes with one factor. -/
def mixRgb (a b : Color) (f : Nat) : Color :=
  ⟨BitVec.ofNat 8 (interp8 a.r.toNat b.r.toNat f),
   BitVec.ofNat 8 (interp8 a.g.toNat b.g.toNat f),
   BitVec.ofNat 8 (interp8 a.b.toNat b.b.toNat f)⟩

/-- The signed hue difference of R121 after the wrap selector (R122). -/
def hueDelta (mode : HueWrapMode) (wrap : Bool) (hs he : Nat) : Int :=
  let d : Int := he - hs
  if wrap = true ∧ mode = .shortestPath then
    if d > 180 then d - 360 else if d < -180 then d + 360 else d
  else d

/-- `interp_hue(hs, he, f, wrap)` of R121. -/
def interpHue (mode : HueWrapMode) (wrap : Bool) (hs he f : Nat) : Nat :=
  let d := hueDelta mode wrap hs he
  let scaled : Int := (d.natAbs * f / 255 : Nat)
  if d > 0 then ((hs + scaled) % 360).toNat else ((hs - scaled) % 360).toNat

/-- `mix_hsl(a, b, f, wrap)` of R123. -/
def mixHsl (round : ConvRound) (hue : HueWrapMode) (a b : Color) (f : Nat) (wrap : Bool) : Color :=
  let ta := rgbToHsl round a
  let tb := rgbToHsl round b
  hslToRgb round (interpHue hue wrap ta.h tb.h f) (interp8 ta.s tb.s f) (interp8 ta.l tb.l f)

/-! ### The commands -/

/-- FROM_HSL (R116). -/
def execFromHsl (hue : BitVec 9) (sat light : BitVec 7) (s : State) : StepOutcome :=
  s.inRun (if hslInRange hue sat light then
      s.ok (hslToRgb convRound hue.toNat sat.toNat light.toNat).word
    else s.raise .hslRange)

/-- TO_HSL (R118). -/
def execToHsl (rgb : BitVec 24) (s : State) : StepOutcome :=
  s.inRun (s.ok (rgbToHsl convRound (Color.unpack rgb)).word)

/-- INTERP (R112). -/
def execInterp (start stop factor : BitVec 8) (s : State) : StepOutcome :=
  s.inRun (s.ok (byteWord (interp8 start.toNat stop.toNat factor.toNat)))

/-- MIX_RGB (R120). -/
def execMixRgb (a b : BitVec 24) (factor : BitVec 8) (s : State) : StepOutcome :=
  s.inRun (s.ok (mixRgb (Color.unpack a) (Color.unpack b) factor.toNat).word)

/-- MIX_HSL (R124). -/
def execMixHsl (wrap : BitVec 1) (a b : BitVec 24) (factor : BitVec 8) (s : State) : StepOutcome :=
  s.inRun (s.ok (mixHsl convRound hueWrapMode (Color.unpack a) (Color.unpack b) factor.toNat
    (wrap.getLsbD 0)).word)

end Sys2Proof.Machine
end

