-- ==== Sys2Proof/Machine/Ratio.lean ====
section
/-! DEFINITION. The Ratio unit (42_ratio.md): the saturating conversion, its back-conversion, and the
saturating quotient the mixing factor uses. Saturation is silent (10_state.md R37). -/

namespace Sys2Proof.Machine

/-- `MAX_RATIO` (R10). -/
def maxRatio : Nat := 255

/-- `ratio_sat(x)` of R150, `x` a signed Q16.16 value. -/
def ratioSat (x : Int) : Nat :=
  if x ≤ 0 then 0 else if x ≥ 65536 then maxRatio else (x / 256).toNat

/-- `ratio_div_sat(n, d)` of R154, for `d ≥ 1`. -/
def ratioDivSat (n d : Nat) : Nat := min maxRatio (256 * n / d)

/-- RATIO_SAT (R151): the operand is signed (R84). -/
def execRatioSat (x : Word32) (s : State) : StepOutcome :=
  s.inRun (s.ok (byteWord (ratioSat x.toInt)))

/-- RATIO_FIX (R153): the exact Q16.16 value of `ratio / 256`. -/
def execRatioFix (ratio : BitVec 8) (s : State) : StepOutcome :=
  s.inRun (s.ok (BitVec.ofNat 32 (ratio.toNat * 256)))

end Sys2Proof.Machine
end

