-- ==== Sys2Proof/Machine/CueEval.lean ====
section
/-! DEFINITION. Cue evaluation (43_cue.md): the phase-offset unit, the mixing factor and the ramp mux.
They read the Cue registers and never write them. -/

namespace Sys2Proof.Machine

/-! ### Phase offset and progress -/

/-- The effective channel of R170. -/
def effectiveChannel (rev : Bool) (ch : Nat) : Nat := if rev then ch else 11 - ch

/-- The phase offset of R171, rounded by "+divisor/2". -/
def phaseOffset (dur td eff : Nat) : Nat := rdiv (dur * eff) td

/-- The wrapped time of R172, the sum exact (log 15). -/
def wrappedTime (time offset dur : Nat) : Nat := (time + offset) % dur

/-- The progress fraction of R173. -/
def progressFraction (wrapped dur : Nat) : Nat := rdiv (wrapped * 255) dur

/-- `progress(time, ch)` of R174 with its guard, reading DUR, TD and REV. -/
def State.progress (s : State) (time ch : Nat) : Nat :=
  if s.dur = 0 ∨ s.td = 0 then 0
  else
    let offset := phaseOffset s.dur s.td (effectiveChannel s.rev ch)
    progressFraction (wrappedTime time offset s.dur) s.dur

/-! ### Mixing factor -/

/-- `mixing_factor(p)` of R177 to R179, for the ramp ratio `rr`. -/
def mixingFactor (rr p : Nat) : Nat :=
  if p ≤ rr then
    if rr = 0 then maxRatio else ratioDivSat p rr
  else maxRatio - ratioDivSat (p - rr) (maxRatio - rr)

/-! ### Current colour -/

/-- `current_color(time, ch)` of R180. TYPE = 3 is held by no reachable state and has no colour in the
spec: there the colour is a free value (log 6). The channel mask is not read (R25; log 14). -/
def State.currentColor (s : State) (time : Word32) (ch : BitVec 4) : Color :=
  if s.active then
    let p := s.progress time.toNat ch.toNat
    match s.rampKind.toNat with
    | 0 => if p < s.rr then s.startColor else s.endColor
    | 1 => mixRgb s.startColor s.endColor (mixingFactor s.rr p)
    | 2 => mixHsl convRound hueWrapMode s.startColor s.endColor (mixingFactor s.rr p) s.rampWrap
    | _ => Color.unpack (Config.reservedRampColor time ch s.evalRegisters)
  else Color.black

/-! ### The commands -/

/-- PROGRESS (R175). -/
def execProgress (channel : BitVec 4) (time : Word32) (s : State) : StepOutcome :=
  s.inRun (if channelInRange channel then
      s.ok (byteWord (s.progress time.toNat channel.toNat))
    else s.raise .channelRange)

/-- MIX_FACTOR (R179): it reads RR whatever CTRL.ACTIVE is. -/
def execMixFactor (ratio : BitVec 8) (s : State) : StepOutcome :=
  s.inRun (s.ok (byteWord (mixingFactor s.rr ratio.toNat)))

/-- CURRENT_COLOR (R181): the channel is checked before CTRL.ACTIVE is read. -/
def execCurrentColor (channel : BitVec 4) (time : Word32) (s : State) : StepOutcome :=
  s.inRun (if channelInRange channel then s.ok (s.currentColor time channel).word
    else s.raise .channelRange)

end Sys2Proof.Machine
end

