-- ==== Sys2Proof/Machine/Dispatch.lean ====
section
/-! DEFINITION. One arm per command of the opcode table (30_encoding.md R85). -/

namespace Sys2Proof.Machine

def exec (i : Instr) (s : State) : Host.Outcome State Fault Refusal :=
  match i with
  -- 44_access.md
  | .nop => Sys2Proof.Machine.execNop s
  | .regWrite idx data => Sys2Proof.Machine.execRegWrite idx data s
  | .regRead idx => Sys2Proof.Machine.execRegRead idx s
  -- 41_color.md
  | .fromHsl hue sat light => Sys2Proof.Machine.execFromHsl hue sat light s
  | .toHsl rgb => Sys2Proof.Machine.execToHsl rgb s
  | .interp start stop factor => Sys2Proof.Machine.execInterp start stop factor s
  | .mixRgb a b factor => Sys2Proof.Machine.execMixRgb a b factor s
  | .mixHsl wrap a b factor => Sys2Proof.Machine.execMixHsl wrap a b factor s
  -- 42_ratio.md
  | .ratioSat x => Sys2Proof.Machine.execRatioSat x s
  | .ratioFix ratio => Sys2Proof.Machine.execRatioFix ratio s
  -- 43_cue.md
  | .progress channel time => Sys2Proof.Machine.execProgress channel time s
  | .mixFactor ratio => Sys2Proof.Machine.execMixFactor ratio s
  | .currentColor channel time => Sys2Proof.Machine.execCurrentColor channel time s

end Sys2Proof.Machine
end

