-- ==== Sys2Proof/Machine/Step.lean ====
section
/-! DEFINITION. One step of the block: one host action taken to completion (30_encoding.md R80,
70_reset_and_hazards.md R250, R257). -/

namespace Sys2Proof.Machine

/-- The block takes the host's next action. A command word is decoded (R87) and executed, or raises its
decode fault; a reset gives no response. With nothing presented the block does nothing and all state is
held (R80, R227, R233; log 4). -/
def step (s : State) : Host.Outcome State Fault Refusal :=
  match s.accept with
  | none => .next s
  | some (.reset, t) => .next t.hostReset
  | some (.command w, t) =>
    match decode w with
    | .ok i => exec i t
    | .error e => t.rejectWord e

/-- The host presents the command word `w` (its low `nbits` bits, the bits above 0) as the very next
action; nothing else changes (log 3). -/
def State.withFetchWord (s : State) (nbits w : Nat) : State :=
  s.presentFirst (BitVec.ofNat 64 (w % 2 ^ nbits))

end Sys2Proof.Machine
end

