-- ==== Sys2Proof/Machine/Assembler.lean ====
section
/-! DEFINITION. The textual form of a command and the pseudo-instructions (30_encoding.md R89, R90): from
one line of characters to the command words it stands for. -/

namespace Sys2Proof.Machine

/-- A pseudo-instruction of R90. -/
inductive Pseudo
  | activate
  | deactivate
  | setJump
  | setLinearRgb
  | setLinearHsl
  | setLinearHslW
  | setColors (a b : Int)
  deriving DecidableEq, Repr

/-- The expansion of a pseudo-instruction (R90). DESIGN CHOICE, log 12: R90 writes the operands of
SET_COLORS as 24 bits wide and gives their check nowhere, so they are checked as the data operands of the
two REG_WRITEs they expand to, against 32 bits (R82, R89). -/
def Pseudo.expand : Pseudo → List Asm
  | .activate => [.regWrite 0x0 1]
  | .deactivate => [.regWrite 0x0 0]
  | .setJump => [.regWrite 0x6 0]
  | .setLinearRgb => [.regWrite 0x6 1]
  | .setLinearHsl => [.regWrite 0x6 2]
  | .setLinearHslW => [.regWrite 0x6 6]
  | .setColors a b => [.regWrite 0x8 a, .regWrite 0x9 b]

/-! ### Numbers and names -/

/-- White space between the parts of a line (log 12). -/
def isBlank (c : Char) : Bool := c == ' ' || c == '\t'

/-- The text with its leading and trailing white space removed. -/
def trimBlanks (cs : List Char) : List Char :=
  ((cs.dropWhile isBlank).reverse.dropWhile isBlank).reverse

/-- The value of a decimal digit. -/
def decimalDigit (c : Char) : Option Nat :=
  if '0'.toNat ≤ c.toNat ∧ c.toNat ≤ '9'.toNat then some (c.toNat - '0'.toNat) else none

/-- The value of a hexadecimal digit, of either case (log 12). -/
def hexDigit (c : Char) : Option Nat :=
  match decimalDigit c with
  | some d => some d
  | none =>
    if 'a'.toNat ≤ c.toNat ∧ c.toNat ≤ 'f'.toNat then some (c.toNat - 'a'.toNat + 10)
    else if 'A'.toNat ≤ c.toNat ∧ c.toNat ≤ 'F'.toNat then some (c.toNat - 'A'.toNat + 10)
    else none

/-- Digits of a base read from the left, continuing the value `acc`. -/
def readDigits (base : Nat) (digit : Char → Option Nat) : Nat → List Char → Option Nat
  | acc, [] => some acc
  | acc, c :: cs =>
    match digit c with
    | none => none
    | some d => readDigits base digit (acc * base + d) cs

/-- A number: decimal, `0x` hexadecimal, or a negative decimal (R89). DESIGN CHOICE, log 12: R89 names
the negative decimal for RATIO_SAT only, and the sign is read here for every operand; the range check
then refuses a negative value of any other operand, so `-0`, which is 0, is what this admits there.
Leading zeros are read; a `-` before `0x` and the prefix `0X` are not. -/
def readNumber : List Char → Option Int
  | [] => none
  | '0' :: 'x' :: d :: ds => (readDigits 16 hexDigit 0 (d :: ds)).map Int.ofNat
  | '-' :: d :: ds => (readDigits 10 decimalDigit 0 (d :: ds)).map fun n => -(n : Int)
  | d :: ds => (readDigits 10 decimalDigit 0 (d :: ds)).map Int.ofNat

/-- A register operand: an index or a register name of 10_state.md R22 (R89). -/
def readRegister (cs : List Char) : Option Int :=
  if cs = "CTRL".toList then some 0x0
  else if cs = "STATUS".toList then some 0x1
  else if cs = "CHAN_MASK".toList then some 0x2
  else if cs = "REVERSE".toList then some 0x3
  else if cs = "TIME_DIVISOR".toList then some 0x4
  else if cs = "DURATION_MS".toList then some 0x5
  else if cs = "RAMP_TYPE".toList then some 0x6
  else if cs = "RAMP_RATIO".toList then some 0x7
  else if cs = "START_COLOR".toList then some 0x8
  else if cs = "END_COLOR".toList then some 0x9
  else readNumber cs

/-- The parts of a text between its commas, each trimmed; the text before the first comma is
`current`, reversed. -/
def splitCommas : (current : List Char) → List Char → List (List Char)
  | current, [] => [trimBlanks current.reverse]
  | current, ',' :: cs => trimBlanks current.reverse :: splitCommas [] cs
  | current, c :: cs => splitCommas (c :: current) cs

/-! ### One line -/

/-- A line's command or pseudo-instruction from its mnemonic and its operand texts (R89, R90); none for
an unknown mnemonic, a wrong number of operands or an unreadable operand. -/
def readLine (mnemonic : List Char) (ops : List (List Char)) : Option (List Asm) :=
  match ops with
  | [] =>
    if mnemonic = "NOP".toList then some [.nop]
    else if mnemonic = "ACTIVATE".toList then some Pseudo.activate.expand
    else if mnemonic = "DEACTIVATE".toList then some Pseudo.deactivate.expand
    else if mnemonic = "SET_JUMP".toList then some Pseudo.setJump.expand
    else if mnemonic = "SET_LINEAR_RGB".toList then some Pseudo.setLinearRgb.expand
    else if mnemonic = "SET_LINEAR_HSL".toList then some Pseudo.setLinearHsl.expand
    else if mnemonic = "SET_LINEAR_HSL.W".toList then some Pseudo.setLinearHslW.expand
    else none
  | [x] =>
    if mnemonic = "REG_READ".toList then do some [.regRead (← readRegister x)]
    else if mnemonic = "TO_HSL".toList then do some [.toHsl (← readNumber x)]
    else if mnemonic = "RATIO_SAT".toList then do some [.ratioSat (← readNumber x)]
    else if mnemonic = "RATIO_FIX".toList then do some [.ratioFix (← readNumber x)]
    else if mnemonic = "MIX_FACTOR".toList then do some [.mixFactor (← readNumber x)]
    else none
  | [x, y] =>
    if mnemonic = "REG_WRITE".toList then do some [.regWrite (← readRegister x) (← readNumber y)]
    else if mnemonic = "PROGRESS".toList then do some [.progress (← readNumber x) (← readNumber y)]
    else if mnemonic = "CURRENT_COLOR".toList then do
      some [.currentColor (← readNumber x) (← readNumber y)]
    else if mnemonic = "SET_COLORS".toList then do
      some (Pseudo.setColors (← readNumber x) (← readNumber y)).expand
    else none
  | [x, y, z] =>
    if mnemonic = "FROM_HSL".toList then do
      some [.fromHsl (← readNumber x) (← readNumber y) (← readNumber z)]
    else if mnemonic = "INTERP".toList then do
      some [.interp (← readNumber x) (← readNumber y) (← readNumber z)]
    else if mnemonic = "MIX_RGB".toList then do
      some [.mixRgb (← readNumber x) (← readNumber y) (← readNumber z)]
    else if mnemonic = "MIX_HSL".toList then do
      some [.mixHsl false (← readNumber x) (← readNumber y) (← readNumber z)]
    else if mnemonic = "MIX_HSL.W".toList then do
      some [.mixHsl true (← readNumber x) (← readNumber y) (← readNumber z)]
    else none
  | _ => none

/-- Every written command as its word; none if one does not fit its fields (R89). -/
def assembleAll : List Asm → Option (List Word64)
  | [] => some []
  | a :: rest => do some ((← assemble a) :: (← assembleAll rest))

/-- One line of assembler text as the command words it stands for, in order (R89, R90): none is an
assembly error, the empty list a line that holds only white space or a comment. -/
def assembleLine (line : List Char) : Option (List Word64) :=
  let text := trimBlanks (line.takeWhile (· != ';'))
  let mnemonic := text.takeWhile (fun c => !isBlank c)
  let rest := trimBlanks (text.dropWhile (fun c => !isBlank c))
  if text = [] then some []
  else do
    let commands ← readLine mnemonic (if rest = [] then [] else splitCommas [] rest)
    assembleAll commands

end Sys2Proof.Machine
end

