-- ==== Sys2Proof/Machine/Exact.lean ====
section
/-! DEFINITION. The two colour-space conversions exactly as 41_color.md R114, R115 and R117 write them,
in exact rationals. The block computes with the integer forms of Machine/Color.lean; the claims compare
the two (log 11). -/

namespace Sys2Proof.Machine

/-- `roundc(q)` of R9 on a rational. -/
def roundRat (mode : ConvRound) (q : ℚ) : ℤ :=
  match mode with
  | .halfUp => ⌊q + 1 / 2⌋
  | .trunc => ⌊q⌋

/-- The sextant table of R115. -/
def exactSextant (k : ℕ) (C X : ℚ) : ℚ × ℚ × ℚ :=
  match k with
  | 0 => (C, X, 0)
  | 1 => (X, C, 0)
  | 2 => (0, C, X)
  | 3 => (0, X, C)
  | 4 => (X, 0, C)
  | _ => (C, 0, X)

/-- The chroma `C` of R114. -/
def exactChroma (S L : ℕ) : ℚ := (100 - |2 * (L : ℚ) - 100|) * S / 10000

/-- The three unrounded channel values `(c1 + m) * 255` of R114. -/
def exactHslToRgb (H S L : ℕ) : ℚ × ℚ × ℚ :=
  let h := H % 360
  let k := h / 60
  let r := h % 60
  let C := exactChroma S L
  let fx : ℚ := if k % 2 = 0 then (r : ℚ) / 60 else (60 - (r : ℚ)) / 60
  let X := C * fx
  let m : ℚ := (L : ℚ) / 100 - C / 2
  let c1 := exactSextant k C X
  ((c1.1 + m) * 255, (c1.2.1 + m) * 255, (c1.2.2 + m) * 255)

/-- The lightness of R117 before rounding, `M` the largest and `n` the smallest channel. -/
def exactLightness (M n : ℕ) : ℚ := 100 * ((M : ℚ) + n) / 510

/-- The saturation of R117 before rounding, for `d = M - n ≠ 0`. -/
def exactSaturation (M n : ℕ) : ℚ := 100 * ((M : ℚ) - n) / (255 - |(M : ℚ) + n - 255|)

/-- The hue formula of R117 for a largest red channel, before rounding. -/
def exactHueRed (G B d : ℚ) : ℚ := if 60 * (G - B) / d < 0 then 60 * (G - B) / d + 360 else 60 * (G - B) / d

/-- The hue formula of R117 for a largest green channel, before rounding. -/
def exactHueGreen (R B d : ℚ) : ℚ := 60 * (B - R) / d + 120

/-- The hue formula of R117 for a largest blue channel, before rounding. -/
def exactHueBlue (R G d : ℚ) : ℚ := 60 * (R - G) / d + 240

end Sys2Proof.Machine
end

