-- ==== Sys2Proof/Safety.lean ====
section
/-! DEFINITION. What claims about runs are stated in: the invariant of 10_state.md R39, the states the
block can reach, a run and its observation (70_reset_and_hazards.md R258), when a written
command assembles (30_encoding.md R89), and the merge of several host contexts (20_memory.md R67). -/

namespace Sys2Proof.Machine

/-! ### The invariant of R39 -/

/-- Every reserved bit of every register is 0 (R22, R39). -/
abbrev State.ReservedBitsZero (s : State) : Prop :=
  s.ctrl &&& ~~~ 0x1 = 0 ∧ s.status &&& ~~~ 0xF1 = 0 ∧
  s.cue.chanMask &&& ~~~ 0xFFF = 0 ∧ s.cue.reverse &&& ~~~ 0x1 = 0 ∧
  s.cue.timeDivisor &&& ~~~ 0xFFFF = 0 ∧ s.cue.durationMs &&& ~~~ 0xFFFF = 0 ∧
  s.cue.rampType &&& ~~~ 0x7 = 0 ∧ s.cue.rampRatio &&& ~~~ 0xFF = 0 ∧
  s.cue.startColor &&& ~~~ 0xFFFFFF = 0 ∧ s.cue.endColor &&& ~~~ 0xFFFFFF = 0

/-- RAMP_TYPE holds one of the four variants (R29, R39). -/
abbrev State.RampLegal (s : State) : Prop :=
  s.cue.rampType.extractLsb' 0 3 ∈ [0b000#3, 0b001#3, 0b010#3, 0b110#3]

/-- STATUS agrees with the mode (R24, R39): FAULT is 1 exactly in FAULTED mode, and CAUSE is 0 exactly
when FAULT is 0. -/
abbrev State.StatusAgrees (s : State) : Prop :=
  (s.statusFault = 1 ↔ s.mode = .faulted) ∧ (s.statusCause = 0 ↔ s.statusFault = 0)

/-- The invariant of every reachable state (R39). -/
abbrev State.Inv (s : State) : Prop :=
  1 ≤ s.td ∧ 1 ≤ s.dur ∧ s.RampLegal ∧ s.ReservedBitsZero ∧
  (s.active = false → s.cue = Cue.default) ∧ s.StatusAgrees

/-! ### Answers, written out from R83 and R223 -/

/-- `s` after a command executed with result `data`: one more response, nothing else (R83). -/
abbrev State.answeredOk (s : State) (data : Word32) : State :=
  { s with responses := s.responses ++ [⟨.ok, data⟩] }

/-- `s` after a command raised the fault of cause code `code`: the three effects of R223, nothing
else. The whole STATUS word is written, its reserved bits 0 (log 7). -/
abbrev State.faultedWith (s : State) (code : Nat) : State :=
  { s with
    mode := .faulted
    status := BitVec.ofNat 32 (16 * code + 1)
    responses := s.responses ++ [⟨.fault, BitVec.ofNat 32 code⟩] }

/-- `s` after a command answered in FAULTED mode without effect: status FAULTED, data the zero-extended
STATUS.CAUSE (R225). -/
abbrev State.answeredFaulted (s : State) : State :=
  { s with responses := s.responses ++ [⟨.faulted, (s.status.extractLsb' 4 4).setWidth 32⟩] }

/-! ### Runs -/

/-- The states the block can be in: after reset, after the host presents an action, after a step. -/
inductive Reachable : State → Prop
  | reset : Reachable State.reset
  | present {s : State} (a : HostAction) : Reachable s → Reachable (s.present a)
  | step {s t : State} : Reachable s → step s = .next t → Reachable t

/-- Two states of the block agree: same mode, same registers (R20). The port's lists are the host's. -/
abbrev SameBlock (s t : State) : Prop :=
  s.mode = t.mode ∧ s.ctrl = t.ctrl ∧ s.status = t.status ∧ s.cue = t.cue

/-- The state with exactly the command words `ws` presented, in order. -/
def State.withCommands (s : State) (ws : List Word64) : State :=
  { s with pending := ws.map HostAction.command }

/-- `k` steps of the block, stopping at the first stop (the host's `Core.run` on this machine). -/
def runSteps (k : Nat) (s : State) : StepOutcome := Sys2Proof.core.run k s

/-- A run of R258: reset, then the finite sequence of commands `ws`, one step each. -/
def runOf (ws : List Word64) : StepOutcome :=
  runSteps ws.length (State.reset.withCommands ws)

/-- What is observed of a run (R258): its responses, the final mode and the final registers. -/
def State.observe (s : State) : List Response × Mode × List Word32 :=
  (s.responses, s.mode, s.registers)

/-- A run ends well when the mode at its end is RUN; a FAULTED end state is a fault outcome and never a
successful final state (R226, R258). -/
abbrev EndsWell (o : StepOutcome) : Prop :=
  match o with
  | .next s => s.mode = .run
  | .fault _ => False
  | .refused _ => False

/-! ### Written commands -/

/-- A written command assembles exactly when `fits` holds, and then its word decodes to a command of which
`holds` is true (R89). -/
abbrev AssemblesWhen (a : Asm) (fits : Prop) (holds : Instr → Prop) : Prop :=
  (fits → ∃ w i, assemble a = some w ∧ decode w = .ok i ∧ holds i) ∧ (¬ fits → assemble a = none)

/-! ### Several host contexts -/

/-- `IsMerge order xs ys zs`: `zs` is the merge of `xs` and `ys` in the order `order`, which says for each
place of `zs` whether the next of `xs` (true) or of `ys` (false) stands there. Over all orders these are
the ways the host can merge the command streams of two contexts into the one stream of R66 (R67); more
contexts merge two at a time. -/
inductive IsMerge {α : Type} : List Bool → List α → List α → List α → Prop
  | done : IsMerge [] [] [] []
  | left {order : List Bool} {xs ys zs : List α} (x : α) :
      IsMerge order xs ys zs → IsMerge (true :: order) (x :: xs) ys (x :: zs)
  | right {order : List Bool} {xs ys zs : List α} (y : α) :
      IsMerge order xs ys zs → IsMerge (false :: order) xs (y :: ys) (y :: zs)

/-- A command that in RUN mode neither writes a register nor can fault: NOP, a REG_READ of an implemented
index, FROM_HSL, PROGRESS and CURRENT_COLOR with operands in range, and the other evaluation commands
(R38, R221). -/
def isHarmless : Instr → Bool
  | .nop => true
  | .regWrite _ _ => false
  | .regRead idx => decide (idx.toNat ≤ 9)
  | .fromHsl hue sat light => hslInRange hue sat light
  | .toHsl _ => true
  | .interp _ _ _ => true
  | .mixRgb _ _ _ => true
  | .mixHsl _ _ _ _ => true
  | .ratioSat _ => true
  | .ratioFix _ => true
  | .progress channel _ => channelInRange channel
  | .mixFactor _ => true
  | .currentColor channel _ => channelInRange channel

end Sys2Proof.Machine
end

