-- ==== Sys2Proof/Certificates/Slice0/Obligations.lean ====
section
/-! DEFINITION. The statements for the provers. Next states are written out field by field (`answeredOk`,
`faultedWith` and `answeredFaulted` of Safety.lean are record updates), so that each command statement
is its completion, its result and its frame at once. There is no memory in this hardware (R60). -/

open Sys2Proof Sys2Proof.Machine

/-! ### Encoding -/

/-- R81, R82, R84, R85, R87: no bit of an encoding is dropped. -/
def Obligations.DecodeOfEncodeIsTheCommand : Prop :=
  ∀ i : Instr, decode (encode i) = .ok i

/-- R82, R85, R86: a word that decodes has every reserved bit 0, so it is the encoding of its command. -/
def Obligations.EncodeOfDecodedWordIsTheWord : Prop :=
  ∀ (w : Word64) (i : Instr), decode w = .ok i → encode i = w

/-- Words of 95_test_vectors.md, one for each format of R82. -/
def Obligations.SpecWordsDecodeToTheirCommands : Prop :=
  decode 0x0000000000000000 = .ok .nop ∧
  decode 0x10000008007F14FF = .ok (.regWrite 8 0x7F14FF) ∧
  decode 0x2000000200000000 = .ok (.regRead 2) ∧
  decode 0x3000000001686432 = .ok (.fromHsl 360 100 50) ∧
  decode 0x40000000007F14FF = .ok (.toHsl 0x7F14FF) ∧
  decode 0x500000000000FF80 = .ok (.interp 0 255 128) ∧
  decode 0x60FF64267F14FF40 = .ok (.mixRgb 0xFF6426 0x7F14FF 64) ∧
  decode 0x71FF00000000FF80 = .ok (.mixHsl 1 0xFF0000 0x0000FF 128) ∧
  decode 0x8000000080000000 = .ok (.ratioSat 0x80000000) ∧
  decode 0x9000000000000080 = .ok (.ratioFix 128) ∧
  decode 0xA000000B00000309 = .ok (.progress 11 777) ∧
  decode 0xB0000000000000FF = .ok (.mixFactor 255) ∧
  decode 0xC0000000000004AF = .ok (.currentColor 0 1199)

/-- R87, with the masks, matches and field positions of R82 and R85 written out: opcode first, then the
reserved bits, then the fields; a failing decode faults in RUN mode and raises no new fault in FAULTED
mode. -/
def Obligations.DecodeChecksOpcodeThenReservedBits : Prop :=
  (∀ w : Word64,
    (13 ≤ (w.extractLsb' 60 4).toNat → decode w = .error .illegalOpcode) ∧
    ∀ row ∈ [
      (0x0#4, 0xFFFFFFFFFFFFFFFF#64, 0x0000000000000000#64, Instr.nop),
      (0x1#4, 0xFFFFFFF000000000#64, 0x1000000000000000#64,
        Instr.regWrite (w.extractLsb' 32 4) (w.extractLsb' 0 32)),
      (0x2#4, 0xFFFFFFF0FFFFFFFF#64, 0x2000000000000000#64, Instr.regRead (w.extractLsb' 32 4)),
      (0x3#4, 0xFFFFFFFFFE008080#64, 0x3000000000000000#64,
        Instr.fromHsl (w.extractLsb' 16 9) (w.extractLsb' 8 7) (w.extractLsb' 0 7)),
      (0x4#4, 0xFFFFFFFFFF000000#64, 0x4000000000000000#64, Instr.toHsl (w.extractLsb' 0 24)),
      (0x5#4, 0xFFFFFFFFFF000000#64, 0x5000000000000000#64,
        Instr.interp (w.extractLsb' 16 8) (w.extractLsb' 8 8) (w.extractLsb' 0 8)),
      (0x6#4, 0xFF00000000000000#64, 0x6000000000000000#64,
        Instr.mixRgb (w.extractLsb' 32 24) (w.extractLsb' 8 24) (w.extractLsb' 0 8)),
      (0x7#4, 0xFE00000000000000#64, 0x7000000000000000#64,
        Instr.mixHsl (w.extractLsb' 56 1) (w.extractLsb' 32 24) (w.extractLsb' 8 24)
          (w.extractLsb' 0 8)),
      (0x8#4, 0xFFFFFFFF00000000#64, 0x8000000000000000#64, Instr.ratioSat (w.extractLsb' 0 32)),
      (0x9#4, 0xFFFFFFFFFFFFFF00#64, 0x9000000000000000#64, Instr.ratioFix (w.extractLsb' 0 8)),
      (0xA#4, 0xFFFFFFF000000000#64, 0xA000000000000000#64,
        Instr.progress (w.extractLsb' 32 4) (w.extractLsb' 0 32)),
      (0xB#4, 0xFFFFFFFFFFFFFF00#64, 0xB000000000000000#64, Instr.mixFactor (w.extractLsb' 0 8)),
      (0xC#4, 0xFFFFFFF000000000#64, 0xC000000000000000#64,
        Instr.currentColor (w.extractLsb' 32 4) (w.extractLsb' 0 32))],
      w.extractLsb' 60 4 = row.1 →
        decode w = if w &&& row.2.1 = row.2.2.1 then .ok row.2.2.2 else .error .reservedBits) ∧
  (∀ (s : State) (w : Word64) (rest : List HostAction) (e : DecodeError),
    s.pending = .command w :: rest → decode w = .error e →
      (s.mode = .run → step s = .next (State.faultedWith { s with pending := rest }
        (if e = .illegalOpcode then 1 else 2))) ∧
      (s.mode = .faulted → step s = .next (State.answeredFaulted { s with pending := rest })))

/-- R85, its clause "no word matches two rows" of the opcode table. -/
def Obligations.NoWordMatchesTwoTableRows : Prop :=
  ∀ (w : Word64) (o₁ o₂ : Opcode),
    w &&& o₁.mask = o₁.pattern → w &&& o₂.mask = o₂.pattern → o₁ = o₂

/-- R89, with the field widths of R82 written out: a written command assembles exactly when every operand
fits its field, the word then decodes to that command with each field holding the integer written for it,
and every command can be written. For RATIO_SAT the range -2^31 to 2^32 - 1 is the model's choice
(log 12): a number below 2^31 is the signed operand, one from 0 up is the 32-bit pattern. -/
def Obligations.AssemblerEncodesWhatFitsAndNothingElse : Prop :=
  AssemblesWhen .nop True (fun i => i = .nop) ∧
  (∀ reg data : ℤ, AssemblesWhen (.regWrite reg data)
    ((0 ≤ reg ∧ reg < 16) ∧ (0 ≤ data ∧ data < 4294967296))
    (fun i => ∃ idx v, i = .regWrite idx v ∧ (idx.toNat : ℤ) = reg ∧ (v.toNat : ℤ) = data)) ∧
  (∀ reg : ℤ, AssemblesWhen (.regRead reg) (0 ≤ reg ∧ reg < 16)
    (fun i => ∃ idx, i = .regRead idx ∧ (idx.toNat : ℤ) = reg)) ∧
  (∀ hue sat light : ℤ, AssemblesWhen (.fromHsl hue sat light)
    ((0 ≤ hue ∧ hue < 512) ∧ (0 ≤ sat ∧ sat < 128) ∧ (0 ≤ light ∧ light < 128))
    (fun i => ∃ h s l, i = .fromHsl h s l ∧
      (h.toNat : ℤ) = hue ∧ (s.toNat : ℤ) = sat ∧ (l.toNat : ℤ) = light)) ∧
  (∀ rgb : ℤ, AssemblesWhen (.toHsl rgb) (0 ≤ rgb ∧ rgb < 16777216)
    (fun i => ∃ c, i = .toHsl c ∧ (c.toNat : ℤ) = rgb)) ∧
  (∀ start stop factor : ℤ, AssemblesWhen (.interp start stop factor)
    ((0 ≤ start ∧ start < 256) ∧ (0 ≤ stop ∧ stop < 256) ∧ (0 ≤ factor ∧ factor < 256))
    (fun i => ∃ s e f, i = .interp s e f ∧
      (s.toNat : ℤ) = start ∧ (e.toNat : ℤ) = stop ∧ (f.toNat : ℤ) = factor)) ∧
  (∀ a b factor : ℤ, AssemblesWhen (.mixRgb a b factor)
    ((0 ≤ a ∧ a < 16777216) ∧ (0 ≤ b ∧ b < 16777216) ∧ (0 ≤ factor ∧ factor < 256))
    (fun i => ∃ c d f, i = .mixRgb c d f ∧
      (c.toNat : ℤ) = a ∧ (d.toNat : ℤ) = b ∧ (f.toNat : ℤ) = factor)) ∧
  (∀ (wrap : Bool) (a b factor : ℤ), AssemblesWhen (.mixHsl wrap a b factor)
    ((0 ≤ a ∧ a < 16777216) ∧ (0 ≤ b ∧ b < 16777216) ∧ (0 ≤ factor ∧ factor < 256))
    (fun i => ∃ w c d f, i = .mixHsl w c d f ∧ (w = 1 ↔ wrap = true) ∧
      (c.toNat : ℤ) = a ∧ (d.toNat : ℤ) = b ∧ (f.toNat : ℤ) = factor)) ∧
  (∀ x : ℤ, AssemblesWhen (.ratioSat x) (-2147483648 ≤ x ∧ x < 4294967296)
    (fun i => ∃ v, i = .ratioSat v ∧
      (x < 2147483648 → v.toInt = x) ∧ (0 ≤ x → (v.toNat : ℤ) = x))) ∧
  (∀ ratio : ℤ, AssemblesWhen (.ratioFix ratio) (0 ≤ ratio ∧ ratio < 256)
    (fun i => ∃ r, i = .ratioFix r ∧ (r.toNat : ℤ) = ratio)) ∧
  (∀ time channel : ℤ, AssemblesWhen (.progress time channel)
    ((0 ≤ time ∧ time < 4294967296) ∧ (0 ≤ channel ∧ channel < 16))
    (fun i => ∃ ch t, i = .progress ch t ∧ (t.toNat : ℤ) = time ∧ (ch.toNat : ℤ) = channel)) ∧
  (∀ ratio : ℤ, AssemblesWhen (.mixFactor ratio) (0 ≤ ratio ∧ ratio < 256)
    (fun i => ∃ r, i = .mixFactor r ∧ (r.toNat : ℤ) = ratio)) ∧
  (∀ time channel : ℤ, AssemblesWhen (.currentColor time channel)
    ((0 ≤ time ∧ time < 4294967296) ∧ (0 ≤ channel ∧ channel < 16))
    (fun i => ∃ ch t, i = .currentColor ch t ∧ (t.toNat : ℤ) = time ∧ (ch.toNat : ℤ) = channel)) ∧
  (∀ i : Instr, ∃ a w, assemble a = some w ∧ decode w = .ok i)

/-! ### The step -/

/-- R80, R87: the step takes the command off the port and executes what it decodes to. -/
def Obligations.StepRunsTheDecodedCommand : Prop :=
  ∀ (s : State) (w : Word64) (rest : List HostAction) (i : Instr),
    s.pending = .command w :: rest → decode w = .ok i → step s = exec i { s with pending := rest }

/-- R86, R87, R220, R223: in RUN mode an illegal opcode faults with cause 1, a reserved bit with cause
2, and nothing else happens. -/
def Obligations.UndecodableWordFaultsWithItsCause : Prop :=
  ∀ (s : State) (w : Word64) (rest : List HostAction),
    s.mode = .run → s.pending = .command w :: rest →
      (13 ≤ (w.extractLsb' 60 4).toNat →
        step s = .next (State.faultedWith { s with pending := rest } 1)) ∧
      (∀ o : Opcode, w.extractLsb' 60 4 = o.code → w &&& o.mask ≠ o.pattern →
        step s = .next (State.faultedWith { s with pending := rest } 2))

/-- R80, R227: the block never acts without a command. That the idle step is a next state is the model's
choice (log 4). -/
def Obligations.WithoutACommandTheBlockHolds : Prop :=
  ∀ s : State, s.pending = [] → step s = .next s

/-- R250, R251: reset sets every piece of state to the value of R251's table from whatever state,
FAULTED among them, gives no response, and is the only way out of FAULTED. -/
def Obligations.HostResetSetsEveryStateElement : Prop :=
  (∀ (s : State) (rest : List HostAction), s.pending = .reset :: rest →
    ∃ t, step s = .next t ∧ t.mode = .run ∧ t.ctrl = 0x00000000 ∧ t.status = 0x00000000 ∧
      t.cue.chanMask = 0x00000FFF ∧ t.cue.reverse = 0x00000000 ∧
      t.cue.timeDivisor = 0x00000001 ∧ t.cue.durationMs = 0x00000001 ∧
      t.cue.rampType = 0x00000000 ∧ t.cue.rampRatio = 0x00000000 ∧
      t.cue.startColor = 0x00000000 ∧ t.cue.endColor = 0x00000000 ∧
      t.responses = s.responses ∧ SameBlock t State.reset) ∧
  (∀ s t : State, s.mode = .faulted → step s = .next t → t.mode = .run →
    ∃ rest, s.pending = .reset :: rest)

/-- R80, R83: every command word, in every state, is answered by exactly one response, and the next
command is then first on the port. So no command ever stops the machine. -/
def Obligations.EveryCommandIsAnsweredOnce : Prop :=
  ∀ (s : State) (w : Word64) (rest : List HostAction), s.pending = .command w :: rest →
    ∃ t r, step s = .next t ∧ t.pending = rest ∧ t.responses = s.responses ++ [r]

/-- R38: the response and the new block depend on the command word, the mode and the registers only. -/
def Obligations.ResponseDependsOnModeAndRegistersOnly : Prop :=
  ∀ (s₁ s₂ : State) (w : Word64) (rest₁ rest₂ : List HostAction),
    SameBlock s₁ s₂ → s₁.pending = .command w :: rest₁ → s₂.pending = .command w :: rest₂ →
      ∃ t₁ t₂ r, step s₁ = .next t₁ ∧ step s₂ = .next t₂ ∧ SameBlock t₁ t₂ ∧
        t₁.responses = s₁.responses ++ [r] ∧ t₂.responses = s₂.responses ++ [r]

/-- R38: a command other than REG_WRITE changes no register but STATUS, and that and the mode only by a
fault. -/
def Obligations.OnlyRegWriteChangesCueAndCtrl : Prop :=
  ∀ (i : Instr) (s t : State), (∀ idx v, i ≠ .regWrite idx v) → exec i s = .next t →
    t.ctrl = s.ctrl ∧ t.cue = s.cue ∧ t.pending = s.pending ∧
      ((t.mode = s.mode ∧ t.status = s.status) ∨ (s.mode = .run ∧ t.mode = .faulted))

/-! ### Invariants -/

/-- R39, R251: the reset state meets the invariant. -/
def Obligations.ResetStateMeetsTheRegisterInvariant : Prop :=
  State.reset.Inv

/-- Every step keeps the invariant, from any state that meets it. (R39 is the spec's own inference,
marked so, from R23, R27, R28, R29 and R201.) -/
def Obligations.EveryStepKeepsTheRegisterInvariant : Prop :=
  ∀ s t : State, s.Inv → step s = .next t → t.Inv

/-- R39 (the spec's own inference), written out for every state reached through reset and host
actions. -/
def Obligations.ReachableStatesMeetTheRegisterInvariant : Prop :=
  ∀ s : State, Reachable s →
    1 ≤ (s.cue.timeDivisor.extractLsb' 0 16).toNat ∧ 1 ≤ (s.cue.durationMs.extractLsb' 0 16).toNat ∧
    s.cue.rampType.extractLsb' 0 3 ∈ [0b000#3, 0b001#3, 0b010#3, 0b110#3] ∧
    (s.ctrl &&& 0xFFFFFFFE = 0 ∧ s.status &&& 0xFFFFFF0E = 0 ∧ s.cue.chanMask &&& 0xFFFFF000 = 0 ∧
      s.cue.reverse &&& 0xFFFFFFFE = 0 ∧ s.cue.timeDivisor &&& 0xFFFF0000 = 0 ∧
      s.cue.durationMs &&& 0xFFFF0000 = 0 ∧ s.cue.rampType &&& 0xFFFFFFF8 = 0 ∧
      s.cue.rampRatio &&& 0xFFFFFF00 = 0 ∧ s.cue.startColor &&& 0xFF000000 = 0 ∧
      s.cue.endColor &&& 0xFF000000 = 0) ∧
    (s.ctrl.getLsbD 0 = false → s.cue = ⟨0xFFF, 0, 1, 1, 0, 0, 0, 0⟩) ∧
    (s.status.getLsbD 0 = true ↔ s.mode = .faulted) ∧
    (s.status.extractLsb' 4 4 = 0 ↔ s.status.getLsbD 0 = false)

/-! ### Faults -/

/-- R223: whatever command faults in RUN mode, the mode becomes FAULTED, STATUS takes FAULT and the
cause, the response is FAULT with the cause, and nothing else changes. That the reserved bits of STATUS
become 0 too, in a state that stores one as 1, is the model's choice (log 7, read from R6 and R22); no
run reaches such a state (R39). -/
def Obligations.FaultEntrySavesTheCauseAndNothingElse : Prop :=
  ∀ (s t : State) (w : Word64) (rest : List HostAction),
    s.mode = .run → s.pending = .command w :: rest → step s = .next t → t.mode = .faulted →
      ∃ code : Nat, 1 ≤ code ∧ code ≤ 9 ∧ t = State.faultedWith { s with pending := rest } code

/-- R220: the cause codes. -/
def Obligations.CauseCodesAreThoseOfTheTable : Prop :=
  [Cause.illegalOpcode, .reservedBits, .badRegister, .noActiveCue, .illegalValue, .zeroDivisor,
    .zeroDuration, .channelRange, .hslRange].map Cause.code = [1, 2, 3, 4, 5, 6, 7, 8, 9]

/-- R24: STATUS changes only at the fault that enters FAULTED and at reset. -/
def Obligations.StatusMovesOnlyAtFaultEntryAndReset : Prop :=
  ∀ s t : State, step s = .next t → t.status ≠ s.status →
    (∃ rest, s.pending = .reset :: rest) ∨ (s.mode = .run ∧ t.mode = .faulted)

/-- R225: in FAULTED mode a decodable REG_READ of an index up to 9 is executed, every other word is
answered FAULTED with the first cause, without effect. -/
def Obligations.FaultedModeExecutesOnlyRegRead : Prop :=
  ∀ (s : State) (w : Word64) (rest : List HostAction),
    s.mode = .faulted → s.pending = .command w :: rest →
      (∀ idx r, decode w = .ok (.regRead idx) → RegName.ofIndex idx = some r →
        step s = .next (State.answeredOk { s with pending := rest } (s.readReg r))) ∧
      ((∀ idx, decode w = .ok (.regRead idx) → 10 ≤ idx.toNat) →
        step s = .next (State.answeredFaulted { s with pending := rest }))

/-- R226, R256: a run of commands from FAULTED mode takes them all and stays in FAULTED mode with every
register as it is, and no response of it is a new fault. -/
def Obligations.FaultIsTerminalUntilReset : Prop :=
  ∀ (s : State) (ws : List Word64), s.mode = .faulted →
    ∃ t answers, runSteps ws.length (s.withCommands ws) = .next t ∧ t.pending = [] ∧
      SameBlock s t ∧ t.responses = s.responses ++ answers ∧ answers.length = ws.length ∧
      ∀ r ∈ answers, r.status ≠ .fault

/-! ### Register access -/

/-- R200: NOP. -/
def Obligations.NopAnswersZeroAndChangesNothing : Prop :=
  (∀ s : State, s.mode = .run → exec .nop s = .next (s.answeredOk 0)) ∧
  (∀ s : State, s.mode = .faulted → exec .nop s = .next s.answeredFaulted) ∧
  encode .nop = 0x0000000000000000 ∧
  (∀ w : Word64, w.extractLsb' 60 4 = 0 → w.extractLsb' 0 60 ≠ 0 → decode w = .error .reservedBits)

/-- R201's pseudocode with its values written out: the checks in order, then the write. -/
def Obligations.RegWriteFollowsItsChecksInOrder : Prop :=
  ∀ (s : State) (idx : BitVec 4) (v : Word32), s.mode = .run →
    let n := idx.toNat
    let fieldMask : Word32 :=
      if n = 0 then 0x1 else if n = 2 then 0xFFF else if n = 3 then 0x1 else if n = 4 then 0xFFFF
      else if n = 5 then 0xFFFF else if n = 6 then 0x7 else if n = 7 then 0xFF else 0xFFFFFF
    exec (.regWrite idx v) s = .next (
      if n ≥ 10 ∨ n = 1 then s.faultedWith 3
      else if 2 ≤ n ∧ n ≤ 9 ∧ s.ctrl.getLsbD 0 = false then s.faultedWith 4
      else if v &&& ~~~ fieldMask ≠ 0 then s.faultedWith 5
      else if n = 6 ∧ v.extractLsb' 0 3 ∉ [0b000#3, 0b001#3, 0b010#3, 0b110#3] then s.faultedWith 5
      else if n = 4 ∧ v = 0 then s.faultedWith 6
      else if n = 5 ∧ v = 0 then s.faultedWith 7
      else if n = 0 then
        if v.getLsbD 0 = false then
          State.answeredOk { s with ctrl := 0, cue := ⟨0xFFF, 0, 1, 1, 0, 0, 0, 0⟩ } 0
        else State.answeredOk { s with ctrl := 1 } 0
      else if n = 2 then State.answeredOk { s with cue := { s.cue with chanMask := v } } 0
      else if n = 3 then State.answeredOk { s with cue := { s.cue with reverse := v } } 0
      else if n = 4 then State.answeredOk { s with cue := { s.cue with timeDivisor := v } } 0
      else if n = 5 then State.answeredOk { s with cue := { s.cue with durationMs := v } } 0
      else if n = 6 then State.answeredOk { s with cue := { s.cue with rampType := v } } 0
      else if n = 7 then State.answeredOk { s with cue := { s.cue with rampRatio := v } } 0
      else if n = 8 then State.answeredOk { s with cue := { s.cue with startColor := v } } 0
      else State.answeredOk { s with cue := { s.cue with endColor := v } } 0)

/-- R25 to R32, R64, R201: with a Cue active, every legal value of every Cue field is written, to that
register only. -/
def Obligations.LegalCueFieldWritesComplete : Prop :=
  ∀ (s : State) (v : Word32), s.mode = .run → s.ctrl.getLsbD 0 = true →
    (v.toNat < 4096 → exec (.regWrite 0x2 v) s =
      .next (State.answeredOk { s with cue := { s.cue with chanMask := v } } 0)) ∧
    (v.toNat < 2 → exec (.regWrite 0x3 v) s =
      .next (State.answeredOk { s with cue := { s.cue with reverse := v } } 0)) ∧
    (1 ≤ v.toNat ∧ v.toNat < 65536 → exec (.regWrite 0x4 v) s =
      .next (State.answeredOk { s with cue := { s.cue with timeDivisor := v } } 0)) ∧
    (1 ≤ v.toNat ∧ v.toNat < 65536 → exec (.regWrite 0x5 v) s =
      .next (State.answeredOk { s with cue := { s.cue with durationMs := v } } 0)) ∧
    (v ∈ [0#32, 1#32, 2#32, 6#32] → exec (.regWrite 0x6 v) s =
      .next (State.answeredOk { s with cue := { s.cue with rampType := v } } 0)) ∧
    (v.toNat < 256 → exec (.regWrite 0x7 v) s =
      .next (State.answeredOk { s with cue := { s.cue with rampRatio := v } } 0)) ∧
    (v.toNat < 16777216 → exec (.regWrite 0x8 v) s =
      .next (State.answeredOk { s with cue := { s.cue with startColor := v } } 0)) ∧
    (v.toNat < 16777216 → exec (.regWrite 0x9 v) s =
      .next (State.answeredOk { s with cue := { s.cue with endColor := v } } 0))

/-- R23: CTRL. -/
def Obligations.CtrlWriteActivatesOrReloadsTheDefaultCue : Prop :=
  (∀ s : State, s.mode = .run →
    exec (.regWrite 0x0 0) s =
      .next (State.answeredOk { s with ctrl := 0, cue := ⟨0xFFF, 0, 1, 1, 0, 0, 0, 0⟩ } 0) ∧
    exec (.regWrite 0x0 1) s = .next (State.answeredOk { s with ctrl := 1 } 0) ∧
    ∀ v : Word32, 2 ≤ v.toNat → exec (.regWrite 0x0 v) s = .next (s.faultedWith 5)) ∧
  State.reset.ctrl.getLsbD 0 = false ∧ State.reset.cue = ⟨0xFFF, 0, 1, 1, 0, 0, 0, 0⟩

/-- R22, R202, R225: in either mode REG_READ of an implemented index answers the register's fields, the
reserved bits 0 (in every state, log 7), and changes nothing; in a state of R39 that is the stored
word. -/
def Obligations.RegReadAnswersTheRegister : Prop :=
  ∀ s : State,
    exec (.regRead 0x0) s = .next (s.answeredOk (s.ctrl &&& 0x00000001)) ∧
    exec (.regRead 0x1) s = .next (s.answeredOk
      (BitVec.ofNat 32 (16 * (s.status.extractLsb' 4 4).toNat + (s.status.extractLsb' 0 1).toNat))) ∧
    exec (.regRead 0x2) s = .next (s.answeredOk (s.cue.chanMask &&& 0x00000FFF)) ∧
    exec (.regRead 0x3) s = .next (s.answeredOk (s.cue.reverse &&& 0x00000001)) ∧
    exec (.regRead 0x4) s = .next (s.answeredOk (s.cue.timeDivisor &&& 0x0000FFFF)) ∧
    exec (.regRead 0x5) s = .next (s.answeredOk (s.cue.durationMs &&& 0x0000FFFF)) ∧
    exec (.regRead 0x6) s = .next (s.answeredOk (s.cue.rampType &&& 0x00000007)) ∧
    exec (.regRead 0x7) s = .next (s.answeredOk (s.cue.rampRatio &&& 0x000000FF)) ∧
    exec (.regRead 0x8) s = .next (s.answeredOk (s.cue.startColor &&& 0x00FFFFFF)) ∧
    exec (.regRead 0x9) s = .next (s.answeredOk (s.cue.endColor &&& 0x00FFFFFF)) ∧
    (s.Inv → ∀ idx r, RegName.ofIndex idx = some r →
      exec (.regRead idx) s = .next (s.answeredOk (s.stored r)))

/-- R33: the reserved indices. -/
def Obligations.ReservedIndicesFaultWithBadRegister : Prop :=
  ∀ (s : State) (idx : BitVec 4) (v : Word32), s.mode = .run → 10 ≤ idx.toNat →
    exec (.regRead idx) s = .next (s.faultedWith 3) ∧
    exec (.regWrite idx v) s = .next (s.faultedWith 3)

/-- R229, R252: without an active Cue every write of a Cue field faults, whatever the value. -/
def Obligations.CueFieldWriteNeedsAnActiveCue : Prop :=
  ∀ (s : State) (idx : BitVec 4) (v : Word32),
    s.mode = .run → s.ctrl.getLsbD 0 = false → 2 ≤ idx.toNat → idx.toNat ≤ 9 →
      exec (.regWrite idx v) s = .next (s.faultedWith 4)

/-- R65: reads have no side effect; a write that completes touches its own register only, but for CTRL
with ACTIVE = 0, which reloads the default Cue; issuing a write twice leaves what issuing it once
leaves (the last clause is the spec's own inference from R64 and R23). -/
def Obligations.RegisterAccessesHaveTheirSideEffectsOnly : Prop :=
  (∀ (s : State) (idx : BitVec 4), idx.toNat ≤ 9 →
    ∃ t, exec (.regRead idx) s = .next t ∧ SameBlock s t) ∧
  (∀ (s t : State) (idx : BitVec 4) (v : Word32) (r : RegName),
    s.mode = .run → exec (.regWrite idx v) s = .next t → t.mode = .run →
    (idx ≠ 0 ∨ v.getLsbD 0 = true) → r.index ≠ idx → t.stored r = s.stored r) ∧
  (∀ (s t : State) (v : Word32),
    s.mode = .run → exec (.regWrite 0x0 v) s = .next t → t.mode = .run →
    v.getLsbD 0 = false → t.status = s.status ∧ t.cue = ⟨0xFFF, 0, 1, 1, 0, 0, 0, 0⟩) ∧
  (∀ (s t u : State) (idx : BitVec 4) (v : Word32),
    exec (.regWrite idx v) s = .next t → exec (.regWrite idx v) t = .next u → SameBlock t u)

/-- R66, R70, R201: a value written is what the very next REG_READ of that register answers. -/
def Obligations.WrittenValueIsReadByTheNextCommand : Prop :=
  ∀ (s t : State) (idx : BitVec 4) (v : Word32),
    s.mode = .run → exec (.regWrite idx v) s = .next t → t.mode = .run →
      exec (.regRead idx) t = .next (t.answeredOk v)

/-- R255: deactivation discards the Cue, and re-activating does not restore it. -/
def Obligations.DeactivationDiscardsTheCue : Prop :=
  ∀ s : State, s.mode = .run →
    ∃ t u, exec (.regWrite 0x0 0) s = .next t ∧ t.cue = ⟨0xFFF, 0, 1, 1, 0, 0, 0, 0⟩ ∧
      exec (.regWrite 0x0 1) t = .next u ∧ u.ctrl = 1 ∧ u.cue = ⟨0xFFF, 0, 1, 1, 0, 0, 0, 0⟩

/-! ### Colour unit -/

/-- R111: the interpolator, with the product and result bounds that R111 marks as derived. -/
def Obligations.InterpolatorFollowsTheSourceAlgorithm : Prop :=
  ∀ s e f : Nat, s ≤ 255 → e ≤ 255 → f ≤ 255 →
    (e > s → interp8 s e f = s + (e - s) * f / 255) ∧
    (e ≤ s → interp8 s e f = s - (s - e) * f / 255) ∧
    (e - s) * f ≤ 65025 ∧ (s - e) * f ≤ 65025 ∧
    interp8 s e f ≤ 255 ∧ min s e ≤ interp8 s e f ∧ interp8 s e f ≤ max s e

/-- R113, the spec's own inference from R111: end points, monotonicity, and the example of (c). -/
def Obligations.InterpolatorEndpointsAndMonotonicity : Prop :=
  (∀ s e : Nat, s ≤ 255 → e ≤ 255 → interp8 s e 0 = s ∧ interp8 s e 255 = e) ∧
  (∀ s e f g : Nat, s ≤ 255 → e ≤ 255 → f ≤ g → g ≤ 255 →
    (e ≥ s → interp8 s e f ≤ interp8 s e g) ∧ (e < s → interp8 s e g ≤ interp8 s e f)) ∧
  interp8 0 255 127 = 127 ∧ interp8 255 0 128 = 127

/-- R112: INTERP completes with the value of R111 in [7:0]. -/
def Obligations.InterpCommandAnswersTheInterpolation : Prop :=
  ∀ (st : State) (s e f : BitVec 8), st.mode = .run →
    exec (.interp s e f) st = .next (st.answeredOk (BitVec.ofNat 32
      (if e.toNat > s.toNat then s.toNat + (e.toNat - s.toNat) * f.toNat / 255
       else s.toNat - (s.toNat - e.toNat) * f.toNat / 255)))

/-- R114, R115: every channel is the exact rational of the pseudocode, rounded once, in 0..255, under
either rounding; and it is the value of R114's integer datapath (log 11). R114 and R115 mark the formula
as general knowledge, and the range and the datapath as derived. -/
def Obligations.HslToRgbIsTheRoundedExactFormula : Prop :=
  ∀ (mode : ConvRound) (H S L : Nat), H ≤ 360 → S ≤ 100 → L ≤ 100 →
    let c := hslToRgb mode H S L
    let q := exactHslToRgb H S L
    ((c.r.toNat : ℤ) = roundRat mode q.1 ∧ (c.g.toNat : ℤ) = roundRat mode q.2.1 ∧
      (c.b.toNat : ℤ) = roundRat mode q.2.2) ∧
    (0 ≤ q.1 ∧ q.1 ≤ 255 ∧ 0 ≤ q.2.1 ∧ q.2.1 ≤ 255 ∧ 0 ≤ q.2.2 ∧ q.2.2 ≤ 255) ∧
    let k := H % 360 / 60
    let r := H % 360 % 60
    let Cn : ℤ := (100 - |2 * (L : ℤ) - 100|) * S
    let Xn : ℤ := 2 * Cn * (if k % 2 = 0 then (r : ℤ) else 60 - r)
    let c1n : ℤ × ℤ × ℤ :=
      if k = 0 then (120 * Cn, Xn, 0) else if k = 1 then (Xn, 120 * Cn, 0)
      else if k = 2 then (0, 120 * Cn, Xn) else if k = 3 then (0, Xn, 120 * Cn)
      else if k = 4 then (Xn, 0, 120 * Cn) else (120 * Cn, 0, Xn)
    let N : ℤ → ℤ := fun c1 => 255 * (12000 * L - 60 * Cn + c1)
    let rounded : ℤ → ℤ := fun c1 =>
      if mode = .halfUp then (N c1 + 600000) / 1200000 else N c1 / 1200000
    (c.r.toNat : ℤ) = rounded c1n.1 ∧ (c.g.toNat : ℤ) = rounded c1n.2.1 ∧
      (c.b.toNat : ℤ) = rounded c1n.2.2

/-- R116: FROM_HSL with operands in range completes with the converted colour in [23:0]. -/
def Obligations.FromHslCommandConvertsInRange : Prop :=
  ∀ (s : State) (hue : BitVec 9) (sat light : BitVec 7),
    s.mode = .run → hue.toNat ≤ 360 → sat.toNat ≤ 100 → light.toNat ≤ 100 →
      let c := hslToRgb convRound hue.toNat sat.toNat light.toNat
      exec (.fromHsl hue sat light) s = .next (s.answeredOk
        (BitVec.ofNat 32 (65536 * c.r.toNat + 256 * c.g.toNat + c.b.toNat)))

/-- R116, R222: an operand out of range faults with HSL_RANGE. -/
def Obligations.FromHslOutOfRangeFaults : Prop :=
  ∀ (s : State) (hue : BitVec 9) (sat light : BitVec 7),
    s.mode = .run → (hue.toNat > 360 ∨ sat.toNat > 100 ∨ light.toNat > 100) →
      exec (.fromHsl hue sat light) s = .next (s.faultedWith 9)

/-- R117: lightness, saturation and hue are the exact rationals of the pseudocode, rounded once, under
either rounding and under EVERY hue formula whose channel is a largest one (so the order of the tests
is not observable, which R117 marks as derived); and the results lie in their ranges. R117 marks the
formula as general knowledge; log 11. -/
def Obligations.RgbToHslIsTheRoundedExactFormula : Prop :=
  ∀ (mode : ConvRound) (c : Color),
    let R := c.r.toNat
    let G := c.g.toNat
    let B := c.b.toNat
    let M := max R (max G B)
    let n := min R (min G B)
    let d : ℚ := (M : ℚ) - n
    let t := rgbToHsl mode c
    (t.l : ℤ) = roundRat mode (exactLightness M n) ∧
    (M = n → t.h = 0 ∧ t.s = 0) ∧
    (M ≠ n →
      (t.s : ℤ) = roundRat mode (exactSaturation M n) ∧
      (M = R → (t.h : ℤ) = roundRat mode (exactHueRed G B d) % 360) ∧
      (M = G → (t.h : ℤ) = roundRat mode (exactHueGreen R B d) % 360) ∧
      (M = B → (t.h : ℤ) = roundRat mode (exactHueBlue R G d) % 360)) ∧
    t.h ≤ 359 ∧ t.s ≤ 100 ∧ t.l ≤ 100

/-- R118: TO_HSL completes with the triple in H [24:16], S [14:8], L [6:0], every other bit 0. -/
def Obligations.ToHslCommandPacksTheTriple : Prop :=
  ∀ (s : State) (rgb : BitVec 24), s.mode = .run →
    let t := rgbToHsl convRound ⟨rgb.extractLsb' 16 8, rgb.extractLsb' 8 8, rgb.extractLsb' 0 8⟩
    exec (.toHsl rgb) s = .next (s.answeredOk (BitVec.ofNat 32 (65536 * t.h + 256 * t.s + t.l)))

/-- R119, R120: MIX_RGB completes with the three lanes interpolated independently. -/
def Obligations.MixRgbInterpolatesEachChannel : Prop :=
  (∀ (a b : Color) (f : Nat), f ≤ 255 →
    (mixRgb a b f).r.toNat = interp8 a.r.toNat b.r.toNat f ∧
    (mixRgb a b f).g.toNat = interp8 a.g.toNat b.g.toNat f ∧
    (mixRgb a b f).b.toNat = interp8 a.b.toNat b.b.toNat f) ∧
  ∀ (s : State) (a b : BitVec 24) (f : BitVec 8), s.mode = .run →
    exec (.mixRgb a b f) s = .next (s.answeredOk (BitVec.ofNat 32
      (65536 * interp8 (a.extractLsb' 16 8).toNat (b.extractLsb' 16 8).toNat f.toNat +
       256 * interp8 (a.extractLsb' 8 8).toNat (b.extractLsb' 8 8).toNat f.toNat +
       interp8 (a.extractLsb' 0 8).toNat (b.extractLsb' 0 8).toNat f.toNat)))

/-- R121: the hue interpolator, under either HUE_WRAP_MODE, with the end points and the plain path of
wrap = 0 that R121 marks as derived. -/
def Obligations.HueInterpolatorFollowsItsPath : Prop :=
  ∀ (mode : HueWrapMode) (wrap : Bool) (hs he f : Nat), hs < 360 → he < 360 → f ≤ 255 →
    let d₀ : ℤ := (he : ℤ) - hs
    let d : ℤ :=
      if wrap = true ∧ mode = .shortestPath then
        (if d₀ > 180 then d₀ - 360 else if d₀ < -180 then d₀ + 360 else d₀)
      else d₀
    let scaled : ℤ := |d| * f / 255
    (interpHue mode wrap hs he f : ℤ) = (if d > 0 then hs + scaled else hs - scaled) % 360 ∧
    |d| * f ≤ 91545 ∧
    (wrap = false → (interpHue mode wrap hs he f : ℤ) = if d > 0 then hs + scaled else hs - scaled) ∧
    interpHue mode wrap hs he 0 = hs ∧ interpHue mode wrap hs he 255 = he

/-- R122, D18: under ShortestPath wrap = 1 turns through at most 180 degrees to the same end hue, the
direct path at exactly 180; under Ignored wrap has no effect. -/
def Obligations.HueWrapSelectsTheShorterWay : Prop :=
  (∀ hs he : Nat, hs < 360 → he < 360 →
    |hueDelta .shortestPath true hs he| ≤ 180 ∧
    (hs + hueDelta .shortestPath true hs he) % 360 = he ∧
    (|(he : ℤ) - hs| ≤ 180 → hueDelta .shortestPath true hs he = he - hs)) ∧
  (∀ hs he f : Nat, hs < 360 → he < 360 → f ≤ 255 →
    interpHue .ignored true hs he f = interpHue .ignored false hs he f)

/-- R123, R124: MIX_HSL completes with both end points converted, interpolated and converted back, under
the block's parameters `convRound` and `hueWrapMode`, whatever their values (logs 1 and 2). -/
def Obligations.MixHslConvertsInterpolatesConvertsBack : Prop :=
  ∀ (s : State) (wrap : BitVec 1) (a b : BitVec 24) (f : BitVec 8), s.mode = .run →
    let ta := rgbToHsl convRound ⟨a.extractLsb' 16 8, a.extractLsb' 8 8, a.extractLsb' 0 8⟩
    let tb := rgbToHsl convRound ⟨b.extractLsb' 16 8, b.extractLsb' 8 8, b.extractLsb' 0 8⟩
    let H := interpHue hueWrapMode (wrap == 1) ta.h tb.h f.toNat
    let c := hslToRgb convRound H (interp8 ta.s tb.s f.toNat) (interp8 ta.l tb.l f.toNat)
    H < 360 ∧ interp8 ta.s tb.s f.toNat ≤ 100 ∧ interp8 ta.l tb.l f.toNat ≤ 100 ∧
    exec (.mixHsl wrap a b f) s = .next (s.answeredOk
      (BitVec.ofNat 32 (65536 * c.r.toNat + 256 * c.g.toNat + c.b.toNat)))

/-- R125, the spec's own inference: the mixers at their end points, the example under HalfUp, and black
with black. -/
def Obligations.MixersAtTheirEndpoints : Prop :=
  (∀ a b : Color, mixRgb a b 0 = a ∧ mixRgb a b 255 = b) ∧
  (∀ (round : ConvRound) (hue : HueWrapMode) (a b : Color) (w : Bool),
    mixHsl round hue a b 0 w =
      hslToRgb round (rgbToHsl round a).h (rgbToHsl round a).s (rgbToHsl round a).l) ∧
  (∀ (hue : HueWrapMode) (b : Color) (w : Bool),
    mixHsl .halfUp hue ⟨0x7F, 0x14, 0xFF⟩ b 0 w = ⟨126, 20, 255⟩) ∧
  (∀ (round : ConvRound) (hue : HueWrapMode) (f : Nat) (w : Bool), f ≤ 255 →
    mixRgb ⟨0, 0, 0⟩ ⟨0, 0, 0⟩ f = ⟨0, 0, 0⟩ ∧
    mixHsl round hue ⟨0, 0, 0⟩ ⟨0, 0, 0⟩ f w = ⟨0, 0, 0⟩)

/-! ### Ratio unit -/

/-- R150, and R152 (the spec's own inference from it): clamps, truncation, and the loss below one
step. -/
def Obligations.RatioSaturatorClampsAndTruncates : Prop :=
  (∀ x : ℤ, x ≤ 0 → ratioSat x = 0) ∧
  (∀ x : ℤ, 65536 ≤ x → ratioSat x = 255) ∧
  (∀ x : ℤ, 0 < x → x < 65536 → (ratioSat x : ℤ) = x / 256) ∧
  (∀ x : ℤ, 0 ≤ x → x < 65536 →
    (ratioSat x : ℚ) / 256 ≤ (x : ℚ) / 65536 ∧ (x : ℚ) / 65536 < ((ratioSat x : ℚ) + 1) / 256)

/-- R151: RATIO_SAT completes; the operand is a signed 32-bit integer. -/
def Obligations.RatioSatCommandReadsASignedOperand : Prop :=
  ∀ (s : State) (x : Word32), s.mode = .run →
    exec (.ratioSat x) s = .next (s.answeredOk (
      if x.toNat = 0 ∨ 2147483648 ≤ x.toNat then 0
      else if 65536 ≤ x.toNat then 255
      else BitVec.ofNat 32 (x.toNat / 256)))

/-- R153: RATIO_FIX completes with the exact Q16.16 value, and RATIO_SAT takes it back (the spec's own
inference from R150). -/
def Obligations.RatioFixIsExactAndTakenBack : Prop :=
  (∀ (s : State) (r : BitVec 8), s.mode = .run →
    exec (.ratioFix r) s = .next (s.answeredOk (r.setWidth 32 <<< 8))) ∧
  (∀ (s : State) (r : BitVec 8), s.mode = .run →
    exec (.ratioSat (r.setWidth 32 <<< 8)) s = .next (s.answeredOk (r.setWidth 32)))

/-! ### Cue evaluation -/

/-- R170 to R174: `progress`, with the bounds those rules mark as derived; the sum is exact (D22,
log 15). -/
def Obligations.ProgressFollowsThePhaseOffset : Prop :=
  ∀ (s : State) (time ch : Nat), time < 4294967296 → ch ≤ 11 →
    (s.dur = 0 ∨ s.td = 0 → s.progress time ch = 0) ∧
    (1 ≤ s.dur → 1 ≤ s.td →
      let eff := if s.cue.reverse.getLsbD 0 then ch else 11 - ch
      let offset := (s.dur * eff + s.td / 2) / s.td
      let wrapped := (time + offset) % s.dur
      s.progress time ch = (wrapped * 255 + s.dur / 2) / s.dur ∧
      eff ≤ 11 ∧ offset ≤ 720885 ∧ wrapped < s.dur ∧
      wrapped = (time % s.dur + offset) % s.dur ∧
      s.progress time ch ≤ 255)

/-- R175: PROGRESS on a channel 0..11 completes with `progress` in [7:0]. -/
def Obligations.ProgressCommandAnswersProgress : Prop :=
  ∀ (s : State) (ch : BitVec 4) (time : Word32), s.mode = .run → ch.toNat < 12 →
    exec (.progress ch time) s =
      .next (s.answeredOk (BitVec.ofNat 32 (s.progress time.toNat ch.toNat)))

/-- R175, R181, R222: PROGRESS and CURRENT_COLOR on a channel 12..15 fault with CHANNEL_RANGE, whatever
the registers hold. -/
def Obligations.ChannelOutOfRangeFaults : Prop :=
  ∀ (s : State) (ch : BitVec 4) (time : Word32), s.mode = .run → 12 ≤ ch.toNat →
    exec (.progress ch time) s = .next (s.faultedWith 8) ∧
    exec (.currentColor ch time) s = .next (s.faultedWith 8)

/-- R176: periodicity in the duration, and phase equivalence of channels `k` apart when `DUR * k` is a
multiple of TD (the spec's own inference from R174). -/
def Obligations.ProgressIsPeriodicAndPhaseShifted : Prop :=
  (∀ (s : State) (time ch : Nat), s.progress (time + s.dur) ch = s.progress time ch) ∧
  (∀ (s : State) (time ch₁ ch₂ k : Nat), ch₁ ≤ 11 → ch₂ ≤ 11 → 1 ≤ s.td →
    s.td ∣ s.dur * k → effectiveChannel s.rev ch₁ = effectiveChannel s.rev ch₂ + k →
      s.progress time ch₁ = s.progress (time + s.dur * k / s.td) ch₂)

/-- R177, R178: the two edges of the mixing factor, its range, and its values at the ends. -/
def Obligations.MixingFactorRisesAndFalls : Prop :=
  ∀ rr p : Nat, rr ≤ 255 → p ≤ 255 →
    (p ≤ rr → rr = 0 → mixingFactor rr p = 255) ∧
    (p ≤ rr → 1 ≤ rr → mixingFactor rr p = min 255 (256 * p / rr)) ∧
    (rr < p → mixingFactor rr p = 255 - min 255 (256 * (p - rr) / (255 - rr))) ∧
    mixingFactor rr rr = 255 ∧ (rr < 255 → mixingFactor rr 255 = 0) ∧ mixingFactor rr p ≤ 255

/-- R179: MIX_FACTOR completes, with or without an active Cue. -/
def Obligations.MixFactorCommandAnswersTheFactor : Prop :=
  ∀ (s : State) (p : BitVec 8), s.mode = .run →
    let rr := (s.cue.rampRatio.extractLsb' 0 8).toNat
    exec (.mixFactor p) s = .next (s.answeredOk (BitVec.ofNat 32 (
      if p.toNat ≤ rr then (if rr = 0 then 255 else min 255 (256 * p.toNat / rr))
      else 255 - min 255 (256 * (p.toNat - rr) / (255 - rr)))))

/-- R180, R181: CURRENT_COLOR on a channel 0..11 completes in every state, and answers black with no
active Cue (D11, log 14), else the blend the ramp type selects. (TYPE = 3, which no reachable state
holds, answers some colour: a free value, log 6.) -/
def Obligations.CurrentColorSelectsTheRamp : Prop :=
  ∀ (s : State) (ch : BitVec 4) (time : Word32), s.mode = .run → ch.toNat < 12 →
    let p := s.progress time.toNat ch.toNat
    let rr := (s.cue.rampRatio.extractLsb' 0 8).toNat
    let answers : Color → Prop := fun c => exec (.currentColor ch time) s =
      .next (s.answeredOk (BitVec.ofNat 32 (65536 * c.r.toNat + 256 * c.g.toNat + c.b.toNat)))
    let start : Color := ⟨s.cue.startColor.extractLsb' 16 8, s.cue.startColor.extractLsb' 8 8,
      s.cue.startColor.extractLsb' 0 8⟩
    let stop : Color := ⟨s.cue.endColor.extractLsb' 16 8, s.cue.endColor.extractLsb' 8 8,
      s.cue.endColor.extractLsb' 0 8⟩
    let kind := s.cue.rampType.extractLsb' 0 2
    (s.ctrl.getLsbD 0 = false → answers ⟨0, 0, 0⟩) ∧
    (s.ctrl.getLsbD 0 = true → kind = 0 → answers (if p < rr then start else stop)) ∧
    (s.ctrl.getLsbD 0 = true → kind = 1 → answers (mixRgb start stop (mixingFactor rr p))) ∧
    (s.ctrl.getLsbD 0 = true → kind = 2 → answers (mixHsl convRound hueWrapMode start stop
      (mixingFactor rr p) (s.cue.rampType.getLsbD 2))) ∧
    (∃ c, answers c)

/-- R34, the inference the spec draws there: every CURRENT_COLOR of a Cue with both colours black is
black, whatever its other fields. -/
def Obligations.BlackCueIsBlackAtEveryTime : Prop :=
  ∀ (s : State) (ch : BitVec 4) (time : Word32),
    s.Inv → s.mode = .run → s.cue.startColor = 0 → s.cue.endColor = 0 → ch.toNat < 12 →
      exec (.currentColor ch time) s = .next (s.answeredOk 0)

/-- R34, R175, R180, R252: with no active Cue PROGRESS answers 0, CURRENT_COLOR black, and MIX_FACTOR
the factor of RR = 0. PROGRESS and MIX_FACTOR rest on the spec's decision D9 (log 13). -/
def Obligations.InactiveBlockEvaluatesTheDefaultCue : Prop :=
  ∀ (s : State) (ch : BitVec 4) (time : Word32) (p : BitVec 8),
    s.Inv → s.mode = .run → s.ctrl.getLsbD 0 = false → ch.toNat < 12 →
      exec (.progress ch time) s = .next (s.answeredOk 0) ∧
      exec (.currentColor ch time) s = .next (s.answeredOk 0) ∧
      exec (.mixFactor p) s = .next (s.answeredOk (BitVec.ofNat 32
        (if p = 0 then 255 else 255 - min 255 (256 * p.toNat / 255))))

/-- R25 (the spec's decision D23, log 14): no command but a REG_READ of CHAN_MASK shows the channel
mask: with another mask the responses, the mode and every other register come out the same. -/
def Obligations.ChannelMaskIsReadByNoCommand : Prop :=
  ∀ (i : Instr) (s t : State) (m : Word32), i ≠ .regRead 0x2 → exec i s = .next t →
    ∃ u, exec i { s with cue := { s.cue with chanMask := m } } = .next u ∧
      u.responses = t.responses ∧ u.mode = t.mode ∧
      ∀ r : RegName, r ≠ .chanMask → u.stored r = t.stored r

/-! ### Runs and merged streams -/

/-- R258: a run of commands gives one response a command, takes every command, and ends in a state of
R39. -/
def Obligations.RunAnswersEveryCommand : Prop :=
  ∀ ws : List Word64, ∃ t, runOf ws = .next t ∧
    t.pending = [] ∧ t.responses.length = ws.length ∧ t.Inv

/-- R66, R67, R38: for every order in which the host merges a context's stream `xs` with another's stream
`ys` of harmless commands, the block ends as after `xs` alone; the responses of the merged run are, in that
same order, those `xs` gets alone merged with those to `ys`; and the response at each place `k` of the
merged stream is the one the command there gets right after those commands of `xs` alone that stand
before it. -/
def Obligations.HarmlessContextsDoNotInterfere : Prop :=
  ∀ (s : State) (order : List Bool) (xs ys zs : List Word64), IsMerge order xs ys zs →
    (∀ w ∈ ys, ∃ i, decode w = .ok i ∧ isHarmless i = true) →
      ∃ t u rx ry rz,
        runSteps zs.length (s.withCommands zs) = .next t ∧
        runSteps xs.length (s.withCommands xs) = .next u ∧
        t.pending = [] ∧ SameBlock t u ∧
        u.responses = s.responses ++ rx ∧ t.responses = s.responses ++ rz ∧
        IsMerge order rx ry rz ∧ rx.length = xs.length ∧ ry.length = ys.length ∧
        ∀ (k : Nat) (w : Word64), zs[k]? = some w →
          ∃ m v r, rz[k]? = some r ∧
            runSteps ((order.take k).count true)
              (s.withCommands (xs.take ((order.take k).count true))) = .next m ∧
            step (m.withCommands [w]) = .next v ∧ v.responses = m.responses ++ [r]
end

