-- ==== Sys2Proof/Laws/State.lean ====
section
/-! SUPPORT. What each shared update of the state leaves in each field, one lemma a field, so that no
proof unfolds a record update. -/

namespace Sys2Proof.Machine

/-! ### Answers -/

@[simp] theorem State.respond_mode (s : State) (st : RespStatus) (d : Word32) : (s.respond st d).mode = s.mode := rfl
@[simp] theorem State.respond_ctrl (s : State) (st : RespStatus) (d : Word32) : (s.respond st d).ctrl = s.ctrl := rfl
@[simp] theorem State.respond_status (s : State) (st : RespStatus) (d : Word32) : (s.respond st d).status = s.status := rfl
@[simp] theorem State.respond_cue (s : State) (st : RespStatus) (d : Word32) : (s.respond st d).cue = s.cue := rfl
@[simp] theorem State.respond_pending (s : State) (st : RespStatus) (d : Word32) : (s.respond st d).pending = s.pending := rfl
@[simp] theorem State.respond_responses (s : State) (st : RespStatus) (d : Word32) : (s.respond st d).responses = s.responses ++ [⟨st, d⟩] := rfl

@[simp] theorem State.ok_mode (s : State) (d : Word32) : (s.ok d).mode = s.mode := rfl
@[simp] theorem State.ok_ctrl (s : State) (d : Word32) : (s.ok d).ctrl = s.ctrl := rfl
@[simp] theorem State.ok_status (s : State) (d : Word32) : (s.ok d).status = s.status := rfl
@[simp] theorem State.ok_cue (s : State) (d : Word32) : (s.ok d).cue = s.cue := rfl
@[simp] theorem State.ok_pending (s : State) (d : Word32) : (s.ok d).pending = s.pending := rfl
@[simp] theorem State.ok_responses (s : State) (d : Word32) : (s.ok d).responses = s.responses ++ [⟨.ok, d⟩] := rfl

@[simp] theorem State.answerFaulted_mode (s : State) : (s.answerFaulted).mode = s.mode := rfl
@[simp] theorem State.answerFaulted_ctrl (s : State) : (s.answerFaulted).ctrl = s.ctrl := rfl
@[simp] theorem State.answerFaulted_status (s : State) : (s.answerFaulted).status = s.status := rfl
@[simp] theorem State.answerFaulted_cue (s : State) : (s.answerFaulted).cue = s.cue := rfl
@[simp] theorem State.answerFaulted_pending (s : State) : (s.answerFaulted).pending = s.pending := rfl
@[simp] theorem State.answerFaulted_responses (s : State) : (s.answerFaulted).responses = 
    s.responses ++ [⟨.faulted, s.statusCause.setWidth 32⟩] := rfl

/-! ### Taking a fault and leaving FAULTED mode -/

@[simp] theorem State.raise_mode (s : State) (c : Cause) : (s.raise c).mode = .faulted := rfl
@[simp] theorem State.raise_ctrl (s : State) (c : Cause) : (s.raise c).ctrl = s.ctrl := rfl
@[simp] theorem State.raise_status (s : State) (c : Cause) : (s.raise c).status = faultStatus c := rfl
@[simp] theorem State.raise_cue (s : State) (c : Cause) : (s.raise c).cue = s.cue := rfl
@[simp] theorem State.raise_pending (s : State) (c : Cause) : (s.raise c).pending = s.pending := rfl
@[simp] theorem State.raise_responses (s : State) (c : Cause) : (s.raise c).responses = 
    s.responses ++ [⟨.fault, c.code.setWidth 32⟩] := rfl

@[simp] theorem State.hostReset_mode (s : State) : (s.hostReset).mode = .run := rfl
@[simp] theorem State.hostReset_ctrl (s : State) : (s.hostReset).ctrl = 0 := rfl
@[simp] theorem State.hostReset_status (s : State) : (s.hostReset).status = 0 := rfl
@[simp] theorem State.hostReset_cue (s : State) : (s.hostReset).cue = Cue.default := rfl
@[simp] theorem State.hostReset_pending (s : State) : (s.hostReset).pending = s.pending := rfl
@[simp] theorem State.hostReset_responses (s : State) : (s.hostReset).responses = s.responses := rfl

/-! ### The command port -/

@[simp] theorem State.present_mode (s : State) (a : HostAction) : (s.present a).mode = s.mode := rfl
@[simp] theorem State.present_ctrl (s : State) (a : HostAction) : (s.present a).ctrl = s.ctrl := rfl
@[simp] theorem State.present_status (s : State) (a : HostAction) : (s.present a).status = s.status := rfl
@[simp] theorem State.present_cue (s : State) (a : HostAction) : (s.present a).cue = s.cue := rfl
@[simp] theorem State.present_pending (s : State) (a : HostAction) : (s.present a).pending = s.pending ++ [a] := rfl
@[simp] theorem State.present_responses (s : State) (a : HostAction) : (s.present a).responses = s.responses := rfl

@[simp] theorem State.presentFirst_mode (s : State) (w : Word64) : (s.presentFirst w).mode = s.mode := rfl
@[simp] theorem State.presentFirst_ctrl (s : State) (w : Word64) : (s.presentFirst w).ctrl = s.ctrl := rfl
@[simp] theorem State.presentFirst_status (s : State) (w : Word64) : (s.presentFirst w).status = s.status := rfl
@[simp] theorem State.presentFirst_cue (s : State) (w : Word64) : (s.presentFirst w).cue = s.cue := rfl
@[simp] theorem State.presentFirst_pending (s : State) (w : Word64) : (s.presentFirst w).pending = .command w :: s.pending := rfl
@[simp] theorem State.presentFirst_responses (s : State) (w : Word64) : (s.presentFirst w).responses = s.responses := rfl

/-! ### The register file: the fields no register write touches -/

@[simp] theorem State.setReg_mode (s : State) (r : RegName) (v : Word32) : (s.setReg r v).mode = s.mode := by cases r <;> rfl
@[simp] theorem State.setReg_pending (s : State) (r : RegName) (v : Word32) : (s.setReg r v).pending = s.pending := by cases r <;> rfl
@[simp] theorem State.setReg_responses (s : State) (r : RegName) (v : Word32) : (s.setReg r v).responses = s.responses := by cases r <;> rfl
@[simp] theorem State.writeReg_mode (s : State) (r : RegName) (v : Word32) : (s.writeReg r v).mode = s.mode := by
  unfold State.writeReg; split <;> [split; skip] <;> simp
@[simp] theorem State.writeReg_pending (s : State) (r : RegName) (v : Word32) : (s.writeReg r v).pending = s.pending := by
  unfold State.writeReg; split <;> [split; skip] <;> simp
@[simp] theorem State.writeReg_responses (s : State) (r : RegName) (v : Word32) : (s.writeReg r v).responses = s.responses := by
  unfold State.writeReg; split <;> [split; skip] <;> simp

end Sys2Proof.Machine
end

