-- ==== Sys2Proof/Laws/Ops.lean ====
section
/-! SUPPORT. What each shared operation can do, said once. -/

namespace Sys2Proof.Machine

/-! ### The mode check and the fault entry -/

@[simp] theorem inRun_of_run {s : State} (h : s.mode = .run) (body : State) :
    s.inRun body = .next body := by
  simp [State.inRun, h]

@[simp] theorem inRun_of_faulted {s : State} (h : s.mode = .faulted) (body : State) :
    s.inRun body = .next s.answerFaulted := by
  simp [State.inRun, h]

/-- The mode check answers a next state: the body's in RUN mode, the FAULTED answer in FAULTED mode. -/
theorem inRun_next {s body t : State} (h : s.inRun body = .next t) :
    (s.mode = .run ∧ t = body) ∨ (s.mode = .faulted ∧ t = s.answerFaulted) := by
  cases hm : s.mode
  · rw [inRun_of_run hm] at h; exact .inl ⟨rfl, (Host.Outcome.next.inj h).symm⟩
  · rw [inRun_of_faulted hm] at h; exact .inr ⟨rfl, (Host.Outcome.next.inj h).symm⟩

theorem faultStatus_eq (c : Cause) : faultStatus c = BitVec.ofNat 32 (16 * c.code.toNat + 1) := by
  cases c <;> decide

/-- The fault entry as the claims write it (R223). -/
theorem raise_eq_faultedWith (s : State) (c : Cause) : s.raise c = s.faultedWith c.code.toNat := by
  have hd : c.code.setWidth 32 = BitVec.ofNat 32 c.code.toNat := by cases c <;> decide
  simp only [State.raise, State.respond, State.faultedWith, faultStatus_eq, hd]

/-- The FAULTED answer as the claims write it (R225). -/
theorem answerFaulted_eq (s : State) : s.answerFaulted = s.answeredFaulted := rfl

/-- The OK answer as the claims write it (R83). -/
theorem ok_eq (s : State) (d : Word32) : s.ok d = s.answeredOk d := rfl

/-- The cause code is one of 1 to 9 (R220). -/
theorem cause_code_range (c : Cause) : 1 ≤ c.code.toNat ∧ c.code.toNat ≤ 9 := by
  cases c <;> decide

/-! ### The register file -/

@[simp] theorem ofIndex_index (r : RegName) : RegName.ofIndex r.index = some r := by
  cases r <;> decide

/-- An index names the register that has it (R61). -/
theorem index_of_ofIndex {idx : BitVec 4} {r : RegName} (h : RegName.ofIndex idx = some r) :
    r.index = idx := by
  revert r; revert idx; decide

/-- Exactly the indices 0 to 9 are implemented (R33, R61). -/
theorem ofIndex_eq_none_iff (idx : BitVec 4) : RegName.ofIndex idx = none ↔ 10 ≤ idx.toNat := by
  revert idx; decide

@[simp] theorem stored_setReg_same (s : State) (r : RegName) (v : Word32) :
    (s.setReg r v).stored r = v := by
  cases r <;> rfl

theorem stored_setReg_other (s : State) {r q : RegName} (v : Word32) (h : q ≠ r) :
    (s.setReg r v).stored q = s.stored q := by
  cases r <;> cases q <;> first | rfl | exact absurd rfl h

/-- A write passes its checks exactly when each of them does (R201). -/
theorem writeFault_eq_none_iff (s : State) (r : RegName) (v : Word32) :
    s.writeFault r v = none ↔
      r ≠ .status ∧ (r = .ctrl ∨ s.active = true) ∧ v &&& ~~~ r.fieldMask = 0 ∧
      (r = .rampType → legalRamp v = true) ∧ (r = .timeDivisor → v ≠ 0) ∧
      (r = .durationMs → v ≠ 0) := by
  by_cases hm : v &&& ~~~ r.fieldMask = 0 <;> by_cases hv : v = 0 <;> cases r <;>
    cases ha : s.active <;> cases hl : legalRamp v <;> simp_all [State.writeFault]

/-- A write of a register other than CTRL replaces that register's word (R201). -/
theorem writeReg_of_ne_ctrl (s : State) {r : RegName} (v : Word32) (h : r ≠ .ctrl) :
    s.writeReg r v = s.setReg r v := by
  simp [State.writeReg, h]

/-- A write of CTRL sets ACTIVE, or clears it and reloads the default Cue (R23). -/
theorem writeReg_ctrl (s : State) (v : Word32) :
    (v.getLsbD 0 = true ∧ s.writeReg .ctrl v = { s with ctrl := 1 }) ∨
    (v.getLsbD 0 = false ∧ s.writeReg .ctrl v = { s with ctrl := 0, cue := Cue.default }) := by
  cases h : v.getLsbD 0
  · exact .inr ⟨rfl, by simp only [State.writeReg, h]; rfl⟩
  · exact .inl ⟨rfl, by simp only [State.writeReg, h]; rfl⟩

/-! ### Response words -/

theorem byteWord_eq {n : Nat} (h : n < 256) : byteWord n = BitVec.ofNat 32 n := by
  apply BitVec.eq_of_toNat_eq
  simp [byteWord, putField, Nat.mod_eq_of_lt h]

theorem color_word_eq (c : Color) :
    c.word = BitVec.ofNat 32 (65536 * c.r.toNat + 256 * c.g.toNat + c.b.toNat) := by
  obtain ⟨r, g, b⟩ := c
  have h : (putField 24 r 16 ||| putField 24 g 8 ||| putField 24 b 0) = r ++ g ++ b := by
    apply BitVec.eq_of_getLsbD_eq
    intro k hk
    simp only [putField, BitVec.getLsbD_or, BitVec.getLsbD_shiftLeft, BitVec.getLsbD_setWidth,
      BitVec.getLsbD_append]
    interval_cases k <;> simp
  apply BitVec.eq_of_toNat_eq
  rw [Color.word, Color.pack, h, putField]
  have hr := r.isLt; have hg := g.isLt; have hb := b.isLt
  simp only [BitVec.shiftLeft_zero, BitVec.toNat_setWidth, BitVec.toNat_append, BitVec.toNat_ofNat]
  rw [← Nat.shiftLeft_add_eq_or_of_lt hb, ← Nat.shiftLeft_add_eq_or_of_lt hg]
  simp only [Nat.shiftLeft_eq]
  omega

/-! ### The command port -/

/-- What the block takes off the port (R66, R80). -/
theorem accept_cases (s : State) :
    (s.pending = [] ∧ s.accept = none) ∨
    ∃ a rest, s.pending = a :: rest ∧ s.accept = some (a, { s with pending := rest }) := by
  unfold State.accept
  cases h : s.pending with
  | nil => exact .inl ⟨rfl, rfl⟩
  | cons a rest => exact .inr ⟨a, rest, rfl, rfl⟩

end Sys2Proof.Machine
end

