-- ==== Sys2Proof/Laws/Arith.lean ====
section
/-! SUPPORT. Bounds and plain forms of the arithmetic the evaluation commands share. -/

namespace Sys2Proof.Machine

/-- A difference scaled by a factor of at most 255 over 255 does not grow (R111, R121). -/
theorem scaled_le {d f : Nat} (hf : f ≤ 255) : d * f / 255 ≤ d :=
  (Nat.div_le_div_right (Nat.mul_le_mul_left d hf)).trans (by simp)

/-- An interpolated value does not exceed the larger end point (R111). -/
theorem interp8_le_max {s e f : Nat} (hf : f ≤ 255) : interp8 s e f ≤ max s e := by
  have h := scaled_le (d := absDiff e s) hf
  have h' : absDiff e s = (e - s) + (s - e) := rfl
  unfold interp8
  dsimp only
  split <;> omega

/-- `roundc` of a quotient of at most `k` is at most `k` (R9). -/
theorem roundc_le (mode : ConvRound) {n d k : Nat} (hd : 0 < d) (h : n ≤ k * d) :
    roundc mode n d ≤ k := by
  cases mode
  · apply Nat.le_of_lt_succ
    rw [roundc, Nat.div_lt_iff_lt_mul (by omega)]
    nlinarith
  · exact Nat.div_le_of_le_mul (by rw [Nat.mul_comm]; exact h)

/-- The integer `roundc` is the rounding of the exact quotient (R9). -/
theorem roundc_eq_roundRat (mode : ConvRound) (n : Nat) {d : Nat} (hd : 0 < d) :
    (roundc mode n d : ℤ) = roundRat mode ((n : ℚ) / d) := by
  cases mode
  · have h : (n : ℚ) / d + 1 / 2 = ((2 * n + d : ℕ) : ℚ) / ((2 * d : ℕ) : ℚ) := by
      push_cast; field_simp
    simp only [roundc, roundRat]
    rw [h, Rat.floor_natCast_div_natCast]
    rfl
  · simp only [roundc, roundRat]
    rw [Rat.floor_natCast_div_natCast]
    rfl

/-- The saturating quotient is a Ratio numerator (R154). -/
theorem ratioDivSat_le (n d : Nat) : ratioDivSat n d ≤ 255 := Nat.min_le_left _ _

/-- The word of an HSL triple whose parts fit their fields (R11, R83). -/
theorem hsl_word_eq (t : Hsl) (hh : t.h < 512) (hs : t.s < 128) (hl : t.l < 128) :
    t.word = BitVec.ofNat 32 (65536 * t.h + 256 * t.s + t.l) := by
  obtain ⟨h, s, l⟩ := t
  simp only at hh hs hl
  have h16 : h <<< 16 = 65536 * h := by rw [Nat.shiftLeft_eq]; omega
  have h8 : s <<< 8 = 256 * s := by rw [Nat.shiftLeft_eq]; omega
  have hj : (256 * h + s) <<< 8 = 65536 * h + 256 * s := by rw [Nat.shiftLeft_eq]; omega
  apply BitVec.eq_of_toNat_eq
  simp only [Hsl.word, putField, BitVec.toNat_or, BitVec.toNat_shiftLeft, BitVec.toNat_setWidth,
    BitVec.toNat_ofNat, Nat.mod_eq_of_lt hh, Nat.mod_eq_of_lt hs, Nat.mod_eq_of_lt hl,
    Nat.reducePow, Nat.shiftLeft_zero]
  rw [Nat.mod_eq_of_lt (show h < 4294967296 by omega),
    Nat.mod_eq_of_lt (show s < 4294967296 by omega),
    Nat.mod_eq_of_lt (show l < 4294967296 by omega), h16, h8,
    Nat.mod_eq_of_lt (show l < 4294967296 by omega),
    Nat.mod_eq_of_lt (show 65536 * h < 4294967296 by omega),
    Nat.mod_eq_of_lt (show 256 * s < 4294967296 by omega), ← h16,
    ← Nat.shiftLeft_add_eq_or_of_lt (show 256 * s < 2 ^ 16 by omega), h16, ← hj,
    ← Nat.shiftLeft_add_eq_or_of_lt (show l < 2 ^ 8 by omega), hj]
  omega

/-- The check of a RAMP_TYPE value is membership in the four variants (R29). -/
theorem legalRamp_iff (v : Word32) :
    legalRamp v = true ↔ v.extractLsb' 0 3 ∈ [0b000#3, 0b001#3, 0b010#3, 0b110#3] := by
  unfold legalRamp
  generalize v.extractLsb' 0 3 = x
  revert x
  decide

/-- An opcode number selects the row that has it (R85). -/
@[simp] theorem ofCode_code (o : Opcode) : Opcode.ofCode o.code = some o := by
  cases o <;> decide

end Sys2Proof.Machine
end

