-- ==== Sys2Proof/Laws/PerInstr.lean ====
section
/-! SUPPORT. The family `MatchesRow`, said of every command: its encoding matches its own row of the
opcode table (30_encoding.md R85), so its opcode bits are the row's and its reserved bits are 0. -/

namespace Sys2Proof.Laws

/-- The encoding of `i` matches the row of its opcode (R85). -/
def MatchesRow.Statement (i : Instr) : Prop := encode i &&& i.opcode.mask = i.opcode.pattern

theorem MatchesRow.nop : MatchesRow.Statement .nop := by
  unfold MatchesRow.Statement; decide

theorem MatchesRow.regWrite (idx : BitVec 4) (data : Word32) :
    MatchesRow.Statement (.regWrite idx data) := by
  simp only [MatchesRow.Statement, encode, putField, Instr.opcode, Opcode.mask, Opcode.pattern]
  apply BitVec.eq_of_getLsbD_eq
  intro k hk
  interval_cases k <;> simp

theorem MatchesRow.regRead (idx : BitVec 4) :
    MatchesRow.Statement (.regRead idx) := by
  simp only [MatchesRow.Statement, encode, putField, Instr.opcode, Opcode.mask, Opcode.pattern]
  apply BitVec.eq_of_getLsbD_eq
  intro k hk
  interval_cases k <;> simp

theorem MatchesRow.fromHsl (hue : BitVec 9) (sat light : BitVec 7) :
    MatchesRow.Statement (.fromHsl hue sat light) := by
  simp only [MatchesRow.Statement, encode, putField, Instr.opcode, Opcode.mask, Opcode.pattern]
  apply BitVec.eq_of_getLsbD_eq
  intro k hk
  interval_cases k <;> simp

theorem MatchesRow.toHsl (rgb : BitVec 24) :
    MatchesRow.Statement (.toHsl rgb) := by
  simp only [MatchesRow.Statement, encode, putField, Instr.opcode, Opcode.mask, Opcode.pattern]
  apply BitVec.eq_of_getLsbD_eq
  intro k hk
  interval_cases k <;> simp

theorem MatchesRow.interp (start stop factor : BitVec 8) :
    MatchesRow.Statement (.interp start stop factor) := by
  simp only [MatchesRow.Statement, encode, putField, Instr.opcode, Opcode.mask, Opcode.pattern]
  apply BitVec.eq_of_getLsbD_eq
  intro k hk
  interval_cases k <;> simp

theorem MatchesRow.mixRgb (a b : BitVec 24) (factor : BitVec 8) :
    MatchesRow.Statement (.mixRgb a b factor) := by
  simp only [MatchesRow.Statement, encode, putField, Instr.opcode, Opcode.mask, Opcode.pattern]
  apply BitVec.eq_of_getLsbD_eq
  intro k hk
  interval_cases k <;> simp

theorem MatchesRow.mixHsl (wrap : BitVec 1) (a b : BitVec 24) (factor : BitVec 8) :
    MatchesRow.Statement (.mixHsl wrap a b factor) := by
  simp only [MatchesRow.Statement, encode, putField, Instr.opcode, Opcode.mask, Opcode.pattern]
  apply BitVec.eq_of_getLsbD_eq
  intro k hk
  interval_cases k <;> simp

theorem MatchesRow.ratioSat (x : Word32) :
    MatchesRow.Statement (.ratioSat x) := by
  simp only [MatchesRow.Statement, encode, putField, Instr.opcode, Opcode.mask, Opcode.pattern]
  apply BitVec.eq_of_getLsbD_eq
  intro k hk
  interval_cases k <;> simp

theorem MatchesRow.ratioFix (ratio : BitVec 8) :
    MatchesRow.Statement (.ratioFix ratio) := by
  simp only [MatchesRow.Statement, encode, putField, Instr.opcode, Opcode.mask, Opcode.pattern]
  apply BitVec.eq_of_getLsbD_eq
  intro k hk
  interval_cases k <;> simp

theorem MatchesRow.progress (channel : BitVec 4) (time : Word32) :
    MatchesRow.Statement (.progress channel time) := by
  simp only [MatchesRow.Statement, encode, putField, Instr.opcode, Opcode.mask, Opcode.pattern]
  apply BitVec.eq_of_getLsbD_eq
  intro k hk
  interval_cases k <;> simp

theorem MatchesRow.mixFactor (ratio : BitVec 8) :
    MatchesRow.Statement (.mixFactor ratio) := by
  simp only [MatchesRow.Statement, encode, putField, Instr.opcode, Opcode.mask, Opcode.pattern]
  apply BitVec.eq_of_getLsbD_eq
  intro k hk
  interval_cases k <;> simp

theorem MatchesRow.currentColor (channel : BitVec 4) (time : Word32) :
    MatchesRow.Statement (.currentColor channel time) := by
  simp only [MatchesRow.Statement, encode, putField, Instr.opcode, Opcode.mask, Opcode.pattern]
  apply BitVec.eq_of_getLsbD_eq
  intro k hk
  interval_cases k <;> simp

end Sys2Proof.Laws
end

