-- ==== Sys2Proof/Laws/Step.lean ====
section
/-! SUPPORT. What a command can do and what a step can do, said once: every later proof about all
commands or all steps starts from `exec_cases` or `step_cases`. -/

namespace Sys2Proof.Machine

/-- Every command's next state is one of four: an OK answer with the block as it was, a completed
REG_WRITE, a fault entry in RUN mode, or the FAULTED answer. -/
theorem exec_cases (i : Instr) (s : State) :
    (∃ d, exec i s = .next (s.ok d)) ∨
    (∃ idx v r, i = .regWrite idx v ∧ RegName.ofIndex idx = some r ∧ s.mode = .run ∧
      s.writeFault r v = none ∧ exec i s = .next ((s.writeReg r v).ok 0)) ∨
    (∃ c, s.mode = .run ∧ exec i s = .next (s.raise c)) ∨
    (s.mode = .faulted ∧ exec i s = .next s.answerFaulted) := by
  cases hm : s.mode
  case faulted =>
    cases i <;> (try (right; right; right; exact ⟨rfl, inRun_of_faulted hm _⟩))
    case regRead idx =>
      cases hr : RegName.ofIndex idx <;> simp [exec, execRegRead, hr, inRun_of_faulted hm]
  case run =>
    cases i
    case regWrite idx v =>
      cases hr : RegName.ofIndex idx with
      | none => right; right; left; exact ⟨.badRegister, rfl, by simp [exec, execRegWrite, hr, hm]⟩
      | some r =>
        cases hf : s.writeFault r v with
        | none => right; left; exact ⟨idx, v, r, rfl, hr, rfl, hf, by simp [exec, execRegWrite, hr, hf, hm]⟩
        | some c => right; right; left; exact ⟨c, rfl, by simp [exec, execRegWrite, hr, hf, hm]⟩
    case regRead idx =>
      cases hr : RegName.ofIndex idx with
      | none => right; right; left; exact ⟨.badRegister, rfl, by simp [exec, execRegRead, hr, hm]⟩
      | some r => left; exact ⟨s.readReg r, by simp [exec, execRegRead, hr]⟩
    case fromHsl hue sat light =>
      cases hr : hslInRange hue sat light
      · right; right; left; exact ⟨.hslRange, rfl, by simp [exec, execFromHsl, hr, hm]⟩
      · left; exact ⟨_, by simp only [exec, execFromHsl, hr, inRun_of_run hm, if_true]; rfl⟩
    case progress ch time =>
      cases hr : channelInRange ch
      · right; right; left; exact ⟨.channelRange, rfl, by simp [exec, execProgress, hr, hm]⟩
      · left; exact ⟨_, by simp only [exec, execProgress, hr, inRun_of_run hm, if_true]; rfl⟩
    case currentColor ch time =>
      cases hr : channelInRange ch
      · right; right; left; exact ⟨.channelRange, rfl, by simp [exec, execCurrentColor, hr, hm]⟩
      · left; exact ⟨_, by simp only [exec, execCurrentColor, hr, inRun_of_run hm, if_true]; rfl⟩
    all_goals
      left
      exact ⟨_, inRun_of_run hm _⟩

/-- A step with nothing presented, on a reset, on a word that decodes, and on one that does not. -/
theorem step_cases (s : State) :
    (s.pending = [] ∧ step s = .next s) ∨
    (∃ rest, s.pending = .reset :: rest ∧
      step s = .next (State.hostReset { s with pending := rest })) ∨
    (∃ w rest i, s.pending = .command w :: rest ∧ decode w = .ok i ∧
      step s = exec i { s with pending := rest }) ∨
    (∃ w rest e, s.pending = .command w :: rest ∧ decode w = .error e ∧
      step s = State.rejectWord { s with pending := rest } e) := by
  rcases accept_cases s with ⟨hp, ha⟩ | ⟨a, rest, hp, ha⟩
  · exact .inl ⟨hp, by simp [step, ha]⟩
  · right
    cases a with
    | reset => exact .inl ⟨rest, hp, by simp [step, ha]⟩
    | command w =>
      right
      cases hd : decode w with
      | ok i => exact .inl ⟨w, rest, i, hp, hd, by simp [step, ha, hd]⟩
      | error e => exact .inr ⟨w, rest, e, hp, hd, by simp [step, ha, hd]⟩

/-! ### Runs -/

@[simp] theorem runSteps_zero (s : State) : runSteps 0 s = .next s := rfl

/-- The host's run takes its first step and goes on from the state it answers. -/
theorem core_run_succ_of_step (M : Host.Core) {s t : M.State} (k : Nat) (h : M.step s = .next t) :
    M.run (k + 1) s = M.run k t := by
  simp only [Host.Core.run, h]

/-- A run takes its first step and goes on from the state it answers. -/
theorem runSteps_succ_of_step {s t : State} (k : Nat) (h : step s = .next t) :
    runSteps (k + 1) s = runSteps k t :=
  core_run_succ_of_step Sys2Proof.core k h

end Sys2Proof.Machine
end

