-- ==== Sys2Proof/Tests/Slice0.lean ====
section
/-! SUPPORT. Tests. Expected values come from spec/95_test_vectors.md (V<n>) and from the tables the
comments name; the witnesses show that the hypotheses of each obligation can be met. -/

namespace Sys2Proof.Tests

open Sys2Proof.Machine

/-! ### Well-formedness: one written command refused by each check (R82, R89) -/

theorem test_wf_refuses_regWrite_index : Asm.wellFormed (.regWrite 16 0) = false := by decide
theorem test_wf_refuses_regWrite_data : Asm.wellFormed (.regWrite 8 4294967296) = false := by decide
theorem test_wf_refuses_regRead_index : Asm.wellFormed (.regRead (-1)) = false := by decide
theorem test_wf_refuses_fromHsl_hue : Asm.wellFormed (.fromHsl 512 0 0) = false := by decide
theorem test_wf_refuses_fromHsl_sat : Asm.wellFormed (.fromHsl 0 128 0) = false := by decide
theorem test_wf_refuses_fromHsl_light : Asm.wellFormed (.fromHsl 0 0 128) = false := by decide
theorem test_wf_refuses_toHsl_rgb : Asm.wellFormed (.toHsl 0x1000000) = false := by decide
theorem test_wf_refuses_interp_start : Asm.wellFormed (.interp 256 0 0) = false := by decide
theorem test_wf_refuses_interp_stop : Asm.wellFormed (.interp 0 (-1) 0) = false := by decide
theorem test_wf_refuses_interp_factor : Asm.wellFormed (.interp 0 0 256) = false := by decide
theorem test_wf_refuses_mixRgb_a : Asm.wellFormed (.mixRgb 0x1000000 0 0) = false := by decide
theorem test_wf_refuses_mixRgb_b : Asm.wellFormed (.mixRgb 0 0x1000000 0) = false := by decide
theorem test_wf_refuses_mixRgb_factor : Asm.wellFormed (.mixRgb 0 0 256) = false := by decide
theorem test_wf_refuses_mixHsl_a : Asm.wellFormed (.mixHsl true (-1) 0 0) = false := by decide
theorem test_wf_refuses_mixHsl_b : Asm.wellFormed (.mixHsl false 0 0x1000000 0) = false := by decide
theorem test_wf_refuses_mixHsl_factor : Asm.wellFormed (.mixHsl true 0 0 256) = false := by decide
theorem test_wf_refuses_ratioSat_x : Asm.wellFormed (.ratioSat (-2147483649)) = false ∧
    Asm.wellFormed (.ratioSat 4294967296) = false := by decide
theorem test_wf_refuses_ratioFix_ratio : Asm.wellFormed (.ratioFix 256) = false := by decide
theorem test_wf_refuses_progress_time : Asm.wellFormed (.progress 4294967296 0) = false := by decide
theorem test_wf_refuses_progress_channel : Asm.wellFormed (.progress 0 16) = false := by decide
theorem test_wf_refuses_mixFactor_ratio : Asm.wellFormed (.mixFactor 256) = false := by decide
theorem test_wf_refuses_currentColor_time : Asm.wellFormed (.currentColor (-1) 0) = false := by decide
theorem test_wf_refuses_currentColor_channel : Asm.wellFormed (.currentColor 0 16) = false := by decide
theorem test_wf_accepts_largest_operands : Asm.wellFormed (.fromHsl 511 127 127) = true ∧
    Asm.wellFormed (.mixHsl true 0xFFFFFF 0xFFFFFF 255) = true ∧
    Asm.wellFormed (.ratioSat (-2147483648)) = true ∧
    Asm.wellFormed (.progress 4294967295 15) = true := by decide

/-! ### Decoding: the word of every command, its fields written out from the top bit down (R82, R85) -/

theorem test_decode_nop : decode (0b0000#4 ++ 0#60) = .ok .nop := by decide
theorem test_decode_regWrite :
    decode (0b0001#4 ++ 0#24 ++ 8#4 ++ 0x7F14FF#32) = .ok (.regWrite 8 0x7F14FF) := by decide
theorem test_decode_regRead :
    decode (0b0010#4 ++ 0#24 ++ 9#4 ++ 0#32) = .ok (.regRead 9) := by decide
theorem test_decode_fromHsl :
    decode (0b0011#4 ++ 0#35 ++ 360#9 ++ 0#1 ++ 100#7 ++ 0#1 ++ 50#7) =
      .ok (.fromHsl 360 100 50) := by decide
theorem test_decode_toHsl :
    decode (0b0100#4 ++ 0#36 ++ 0xFF6426#24) = .ok (.toHsl 0xFF6426) := by decide
theorem test_decode_interp :
    decode (0b0101#4 ++ 0#36 ++ 200#8 ++ 10#8 ++ 128#8) = .ok (.interp 200 10 128) := by decide
theorem test_decode_mixRgb :
    decode (0b0110#4 ++ 0#4 ++ 0xFF6426#24 ++ 0x7F14FF#24 ++ 64#8) =
      .ok (.mixRgb 0xFF6426 0x7F14FF 64) := by decide
theorem test_decode_mixHsl :
    decode (0b0111#4 ++ 0#3 ++ 1#1 ++ 0xFF0000#24 ++ 0x0000FF#24 ++ 128#8) =
      .ok (.mixHsl 1 0xFF0000 0x0000FF 128) := by decide
theorem test_decode_ratioSat :
    decode (0b1000#4 ++ 0#28 ++ 0x80000001#32) = .ok (.ratioSat 0x80000001) := by decide
theorem test_decode_ratioFix : decode (0b1001#4 ++ 0#52 ++ 200#8) = .ok (.ratioFix 200) := by decide
theorem test_decode_progress :
    decode (0b1010#4 ++ 0#24 ++ 11#4 ++ 777#32) = .ok (.progress 11 777) := by decide
theorem test_decode_mixFactor :
    decode (0b1011#4 ++ 0#52 ++ 129#8) = .ok (.mixFactor 129) := by decide
theorem test_decode_currentColor :
    decode (0b1100#4 ++ 0#24 ++ 3#4 ++ 299#32) = .ok (.currentColor 3 299) := by decide
/-- V56 to V58: the illegal opcode is found before the reserved bits. -/
theorem test_decode_illegal_opcodes :
    decode 0xD000000000000000 = .error .illegalOpcode ∧
    decode 0xE000000000000000 = .error .illegalOpcode ∧
    decode 0xFFFFFFFFFFFFFFFF = .error .illegalOpcode := by decide
/-- V54, V55, V59 to V67: one reserved bit set in each format. -/
theorem test_decode_reserved_bits :
    decode 0x0000000000000001 = .error .reservedBits ∧
    decode 0x0800000000000000 = .error .reservedBits ∧
    decode 0x2000000000000001 = .error .reservedBits ∧
    decode 0x3000000000000080 = .error .reservedBits ∧
    decode 0x3000000002000000 = .error .reservedBits ∧
    decode 0x4000000001000000 = .error .reservedBits ∧
    decode 0x7200000000000000 = .error .reservedBits ∧
    decode 0x6100000000000000 = .error .reservedBits ∧
    decode 0x8000000100000000 = .error .reservedBits ∧
    decode 0xA000001000000000 = .error .reservedBits ∧
    decode 0x1000001000000000 = .error .reservedBits := by decide
theorem test_decodeTableWord :
    decodeTableWord 64 0x71FF00000000FF80 = some (.mixHsl 1 0xFF0000 0x0000FF 128) ∧
    decodeTableWord 64 0xD000000000000000 = none := by decide

/-! ### States and answers -/

/-- The reset state with CTRL = `ctrl` and the Cue registers `cue`. -/
def running (ctrl : Word32) (cue : Cue) : State := { State.reset with ctrl := ctrl, cue := cue }

/-- State A of the vectors: a Cue active, every other register at reset. -/
def stateA : State := running 1 Cue.default

/-- State SRC of the vectors. -/
def stateSrc : State :=
  running 1 { Cue.default with reverse := 1, timeDivisor := 12, durationMs := 1200 }

/-- State SRC with a ramp from red to blue. -/
def stateRamp (kind ratio : Word32) : State :=
  running 1 { stateSrc.cue with
    rampType := kind, rampRatio := ratio, startColor := 0xFF0000, endColor := 0x0000FF }

/-- FAULTED with cause 4. -/
def stateFaulted : State := { State.reset with mode := .faulted, status := 0x41 }

/-- The last response after the block's next step on the command word `w`. -/
def answer (s : State) (w : Word64) : Option Response :=
  match step (s.presentFirst w) with
  | .next t => t.responses.getLast?
  | .fault _ => none
  | .refused _ => none

/-- The state after the block's next step on the command word `w`, without its responses. -/
def after (s : State) (w : Word64) : Option State :=
  match step (s.presentFirst w) with
  | .next t => some { t with responses := [] }
  | .fault _ => none
  | .refused _ => none

/-- The outcome is the next state `t`, as a test that `decide` can run. -/
def nextIs (o : StepOutcome) (t : State) : Bool :=
  match o with
  | .next u => decide (u = t)
  | .fault _ => false
  | .refused _ => false

theorem nextIs_iff (o : StepOutcome) (t : State) : nextIs o t = true ↔ o = .next t := by
  cases o <;> simp [nextIs]

/-! ### One step of each command -/

/-- V53, and its FAULTED answer V217. -/
theorem test_nop : answer State.reset 0x0000000000000000 = some ⟨.ok, 0⟩ ∧
    answer stateFaulted 0x0000000000000000 = some ⟨.faulted, 4⟩ := by decide
/-- V44, V70, V71, V72, V77, V79, V82, V87, V88: the checks of REG_WRITE. -/
theorem test_regWrite_checks :
    answer State.reset 0x10000008007F14FF = some ⟨.fault, 4⟩ ∧
    answer State.reset 0x1000000000000003 = some ⟨.fault, 5⟩ ∧
    answer State.reset 0x1000000100000000 = some ⟨.fault, 3⟩ ∧
    answer State.reset 0x1000000A00000000 = some ⟨.fault, 3⟩ ∧
    answer stateA 0x1000000200001000 = some ⟨.fault, 5⟩ ∧
    answer stateA 0x1000000400000000 = some ⟨.fault, 6⟩ ∧
    answer stateA 0x1000000500000000 = some ⟨.fault, 7⟩ ∧
    answer stateA 0x1000000600000003 = some ⟨.fault, 5⟩ ∧
    answer stateA 0x1000000600000004 = some ⟨.fault, 5⟩ := by decide
/-- V30, V90, V99: a write of one register, and the reload of the default Cue. -/
theorem test_regWrite_effects :
    after stateA 0x10000008007F14FF =
      some (running 1 { Cue.default with startColor := 0x7F14FF }) ∧
    after stateA 0x1000000600000006 = some (running 1 { Cue.default with rampType := 6 }) ∧
    after stateSrc 0x1000000000000000 = some State.reset := by decide
/-- V36, V74, and in FAULTED mode V220 and V222. -/
theorem test_regRead :
    answer State.reset 0x2000000200000000 = some ⟨.ok, 0xFFF⟩ ∧
    answer State.reset 0x2000000A00000000 = some ⟨.fault, 3⟩ ∧
    answer stateFaulted 0x2000000100000000 = some ⟨.ok, 0x41⟩ ∧
    answer stateFaulted 0x2000000A00000000 = some ⟨.faulted, 4⟩ := by decide
/-- R223: the state a fault leaves (V216). -/
theorem test_fault_entry : after State.reset 0x1000000300000001 = some stateFaulted := by decide
/-- V117, V123, V128, V129. -/
theorem test_fromHsl :
    answer State.reset 0x3000000001686432 = some ⟨.ok, 0x00FF0000⟩ ∧
    answer State.reset 0x30000000001E6432 = some ⟨.ok, 0x00FF8000⟩ ∧
    answer State.reset 0x3000000000C83C1E = some ⟨.ok, 0x001F5C7A⟩ ∧
    answer State.reset 0x3000000001676432 = some ⟨.ok, 0x00FF0004⟩ := by decide
/-- V131, V133, V134. -/
theorem test_fromHsl_out_of_range :
    answer State.reset 0x3000000001690000 = some ⟨.fault, 9⟩ ∧
    answer State.reset 0x3000000000006500 = some ⟨.fault, 9⟩ ∧
    answer State.reset 0x300000000000007F = some ⟨.fault, 9⟩ := by decide
/-- V140 to V143, V145. -/
theorem test_toHsl :
    answer State.reset 0x4000000000808080 = some ⟨.ok, 0x00000032⟩ ∧
    answer State.reset 0x40000000007F14FF = some ⟨.ok, 0x010B6436⟩ ∧
    answer State.reset 0x4000000000FF6426 = some ⟨.ok, 0x00116439⟩ ∧
    answer State.reset 0x4000000000FF0001 = some ⟨.ok, 0x00006432⟩ ∧
    answer State.reset 0x4000000000FEFFFF = some ⟨.ok, 0x00B46464⟩ := by decide
/-- V107, V108, V112, V114. -/
theorem test_interp :
    answer State.reset 0x50000000000AC880 = some ⟨.ok, 0x69⟩ ∧
    answer State.reset 0x5000000000C80A80 = some ⟨.ok, 0x69⟩ ∧
    answer State.reset 0x50000000000001FE = some ⟨.ok, 0⟩ ∧
    answer State.reset 0x50000000000100FE = some ⟨.ok, 1⟩ := by decide
/-- V147, V150. -/
theorem test_mixRgb :
    answer State.reset 0x60FF64267F14FF40 = some ⟨.ok, 0x00DF505C⟩ ∧
    answer State.reset 0x60FF00000000FF80 = some ⟨.ok, 0x007F0080⟩ := by decide
/-- V152, V153, V157, V158. -/
theorem test_mixHsl :
    answer State.reset 0x70FF00000000FF80 = some ⟨.ok, 0x0000FF00⟩ ∧
    answer State.reset 0x71FF00000000FF80 = some ⟨.ok, 0x00FF00FF⟩ ∧
    answer State.reset 0x71FF000000FFFF80 = some ⟨.ok, 0x0080FF00⟩ ∧
    answer State.reset 0x707F14FF00000000 = some ⟨.ok, 0x007E14FF⟩ := by decide
/-- V162, V164, V165, V167, V168. -/
theorem test_ratioSat :
    answer State.reset 0x80000000FFFFFFFF = some ⟨.ok, 0⟩ ∧
    answer State.reset 0x80000000000000FF = some ⟨.ok, 0⟩ ∧
    answer State.reset 0x8000000000000100 = some ⟨.ok, 1⟩ ∧
    answer State.reset 0x800000000000FFFF = some ⟨.ok, 0xFF⟩ ∧
    answer State.reset 0x8000000000010000 = some ⟨.ok, 0xFF⟩ := by decide
/-- V171, V173. -/
theorem test_ratioFix : answer State.reset 0x9000000000000001 = some ⟨.ok, 0x100⟩ ∧
    answer State.reset 0x90000000000000FF = some ⟨.ok, 0xFF00⟩ := by decide
/-- V9, V14, V16, V20, V21, V177. -/
theorem test_progress :
    answer stateSrc 0xA000000500000000 = some ⟨.ok, 0x6A⟩ ∧
    answer stateSrc 0xA0000000FFFFFFFF = some ⟨.ok, 0x69⟩ ∧
    answer stateSrc 0xA000000800000258 = some ⟨.ok, 0x2B⟩ ∧
    answer stateSrc 0xA0000000000004AF = some ⟨.ok, 0xFF⟩ ∧
    answer stateSrc 0xA0000000000004B0 = some ⟨.ok, 0⟩ ∧
    answer (running 1 { stateSrc.cue with reverse := 0 }) 0xA000000000000000 = some ⟨.ok, 0xEA⟩ := by
  decide
/-- V175, V186: the channel check, and the exact sum at the end of the time range. -/
theorem test_progress_limits :
    answer stateSrc 0xA000000C00000000 = some ⟨.fault, 8⟩ ∧
    answer (running 1 { Cue.default with reverse := 1, durationMs := 65535 }) 0xA000000BFFFFFFFF =
      some ⟨.ok, 0⟩ := by decide
/-- V190 to V193, V194. -/
theorem test_mixFactor :
    answer (stateRamp 0 128) 0xB000000000000040 = some ⟨.ok, 0x80⟩ ∧
    answer (stateRamp 0 128) 0xB000000000000080 = some ⟨.ok, 0xFF⟩ ∧
    answer (stateRamp 0 128) 0xB000000000000081 = some ⟨.ok, 0xFD⟩ ∧
    answer (stateRamp 0 128) 0xB0000000000000FF = some ⟨.ok, 0⟩ ∧
    answer State.reset 0xB000000000000000 = some ⟨.ok, 0xFF⟩ := by decide
/-- V23, V25, V197, V202, V206. -/
theorem test_currentColor :
    answer (stateRamp 0 128) 0xC00000030000012B = some ⟨.ok, 0x00FF0000⟩ ∧
    answer (stateRamp 0 128) 0xC00000030000012C = some ⟨.ok, 0x000000FF⟩ ∧
    answer (stateRamp 1 128) 0xC00000000000012C = some ⟨.ok, 0x007F0080⟩ ∧
    answer (stateRamp 2 128) 0xC00000000000012C = some ⟨.ok, 0x0000FF00⟩ ∧
    answer (stateRamp 6 128) 0xC00000000000012C = some ⟨.ok, 0x00FF00FF⟩ := by decide
/-- V209, V210: no active Cue, and the channel check before it. -/
theorem test_currentColor_inactive :
    answer State.reset 0xC000000400001388 = some ⟨.ok, 0⟩ ∧
    answer State.reset 0xC000000C00000000 = some ⟨.fault, 8⟩ := by decide
/-- R250: reset out of FAULTED, between two commands, without a response. -/
theorem test_host_reset :
    nextIs (step { stateFaulted with pending := [.reset, .command 0] })
      { State.reset with pending := [.command 0] } := by decide

/-! ### The assembler (R89, R90; words of 95_test_vectors.md) -/

theorem test_assemble_hex_and_name : assembleLine "REG_WRITE START_COLOR, 0x7F14FF ; V30".toList =
    some [0x10000008007F14FF] := by decide
theorem test_assemble_wrap_suffix : assembleLine "MIX_HSL.W 0xFF0000, 0x0000FF, 128".toList =
    some [0x71FF00000000FF80] := by decide
theorem test_assemble_negative : assembleLine "RATIO_SAT -1".toList = some [0x80000000FFFFFFFF] := by
  decide
theorem test_assemble_time_then_channel : assembleLine "PROGRESS 777, 11".toList =
    some [0xA000000B00000309] := by decide
theorem test_assemble_pseudo : assembleLine "SET_COLORS 0xFF0000, 0x0000FF".toList =
    some [0x1000000800FF0000, 0x10000009000000FF] := by decide
/-- Log 12: an operand of SET_COLORS is checked as REG_WRITE's data, and R201 refuses its 25th bit. -/
theorem test_assemble_set_colors_width :
    assembleLine "SET_COLORS 0x1000000, 0".toList =
      some [0x1000000801000000, 0x1000000900000000] ∧
    answer stateA 0x1000000801000000 = some ⟨.fault, 5⟩ ∧
    assembleLine "SET_COLORS 0x100000000, 0".toList = none := by decide
/-- Log 12: the sign is read for every operand, and the range check refuses a negative value. -/
theorem test_assemble_minus_zero : assembleLine "RATIO_FIX -0".toList = some [0x9000000000000000] ∧
    assembleLine "RATIO_FIX -1".toList = none ∧ assembleLine "RATIO_SAT -0x1".toList = none ∧
    assembleLine "RATIO_FIX 007".toList = some [0x9000000000000007] := by decide
theorem test_assemble_refuses : assembleLine "INTERP 0, 255, 256".toList = none ∧
    assembleLine "MIX_HSL 0, 0".toList = none ∧ assembleLine "FOO".toList = none := by decide

/-! ### Witnesses: the hypotheses of each obligation are met together by a concrete state -/

theorem test_witness_EncodeOfDecodedWordIsTheWord :
    decode 0x71FF00000000FF80 = .ok (.mixHsl 1 0xFF0000 0x0000FF 128) := by decide

theorem test_witness_DecodeChecksOpcodeThenReservedBits :
    13 ≤ ((0xD000000000000000#64).extractLsb' 60 4).toNat ∧
    13 ≤ ((0xFFFFFFFFFFFFFFFF#64).extractLsb' 60 4).toNat ∧
    (0x0800000000000000#64).extractLsb' 60 4 = 0x0#4 ∧
    (0xC00000030000012B#64).extractLsb' 60 4 = 0xC#4 ∧
    stateFaulted.mode = .faulted ∧ State.reset.mode = .run ∧
    (State.reset.presentFirst 0x2000000000000001).pending =
      .command 0x2000000000000001 :: [] ∧
    (stateFaulted.presentFirst 0xD000000000000000).pending =
      .command 0xD000000000000000 :: [] ∧
    decode 0xD000000000000000 = .error .illegalOpcode ∧
    decode 0x2000000000000001 = .error .reservedBits := by decide

theorem test_witness_NoWordMatchesTwoTableRows :
    0xC00000030000012B &&& Opcode.mask .currentColor = Opcode.pattern .currentColor ∧
    0 &&& Opcode.mask .nop = Opcode.pattern .nop := by decide

theorem test_witness_AssemblerEncodesWhatFitsAndNothingElse :
    assemble (.ratioSat (-2147483648)) = some 0x8000000080000000 ∧
    assemble (.ratioSat 4294967295) = some 0x80000000FFFFFFFF ∧
    assemble (.ratioSat 4294967296) = none ∧
    assemble (.regWrite 15 4294967295) = some 0x1000000FFFFFFFFF ∧ assemble (.regWrite 16 0) = none ∧
    assemble (.fromHsl 511 127 127) = some 0x3000000001FF7F7F ∧ assemble (.fromHsl 512 0 0) = none ∧
    assemble (.mixHsl true 0xFFFFFF 0 255) = some 0x71FFFFFF000000FF ∧
    assemble (.progress 4294967295 15) = some 0xA000000FFFFFFFFF ∧
    assemble (.progress 0 16) = none := by decide

theorem test_witness_StepRunsTheDecodedCommand :
    (stateSrc.presentFirst 0xA0000000000004AF).pending = .command 0xA0000000000004AF :: [] ∧
    decode 0xA0000000000004AF = .ok (.progress 0 1199) := by decide

theorem test_witness_UndecodableWordFaultsWithItsCause :
    State.reset.mode = .run ∧
    (State.reset.presentFirst 0xD000000000000000).pending = .command 0xD000000000000000 :: [] ∧
    13 ≤ ((0xD000000000000000#64).extractLsb' 60 4).toNat ∧
    (State.reset.presentFirst 0x6100000000000000).pending = .command 0x6100000000000000 :: [] ∧
    (0x6100000000000000#64).extractLsb' 60 4 = Opcode.code .mixRgb ∧
    0x6100000000000000 &&& Opcode.mask .mixRgb ≠ Opcode.pattern .mixRgb := by decide

theorem test_witness_WithoutACommandTheBlockHolds : State.reset.pending = [] := by decide

theorem test_witness_HostResetSetsEveryStateElement :
    ({ stateFaulted with pending := [.reset] } : State).pending = .reset :: [] ∧
    stateFaulted.mode = .faulted ∧
    nextIs (step { stateFaulted with pending := [.reset] }) State.reset ∧
    State.reset.mode = .run := by decide

theorem test_witness_EveryCommandIsAnsweredOnce :
    (stateFaulted.presentFirst 0xFFFFFFFFFFFFFFFF).pending =
      .command 0xFFFFFFFFFFFFFFFF :: [] := by decide

theorem test_witness_ResponseDependsOnModeAndRegistersOnly :
    SameBlock (stateSrc.presentFirst 0xA0000000000004AF)
      { stateSrc with pending := [.command 0xA0000000000004AF, .reset], responses := [⟨.ok, 7⟩] } ∧
    (stateSrc.presentFirst 0xA0000000000004AF).pending = .command 0xA0000000000004AF :: [] := by decide

theorem test_witness_OnlyRegWriteChangesCueAndCtrl :
    (∀ idx v, Instr.fromHsl 361 0 0 ≠ .regWrite idx v) ∧
    nextIs (exec (.fromHsl 361 0 0) State.reset) (State.reset.faultedWith 9) :=
  ⟨fun _ _ h => (nomatch h), by decide⟩

theorem test_witness_EveryStepKeepsTheRegisterInvariant :
    stateSrc.Inv ∧ (stateSrc.presentFirst 0x1000000000000000).Inv ∧
    nextIs (step (stateSrc.presentFirst 0x1000000000000000))
      { State.reset with responses := [⟨.ok, 0⟩] } := by decide

theorem test_witness_ReachableStatesMeetTheRegisterInvariant :
    Reachable { State.reset with ctrl := 1, responses := [⟨.ok, 0⟩] } :=
  .step (.present (.command 0x1000000000000001) .reset) ((nextIs_iff _ _).1 (by decide))

theorem test_witness_FaultEntrySavesTheCauseAndNothingElse :
    State.reset.mode = .run ∧
    (State.reset.presentFirst 0x1000000300000001).pending = .command 0x1000000300000001 :: [] ∧
    nextIs (step (State.reset.presentFirst 0x1000000300000001)) (State.reset.faultedWith 4) ∧
    (State.reset.faultedWith 4).mode = .faulted := by decide

theorem test_witness_StatusMovesOnlyAtFaultEntryAndReset :
    nextIs (step (State.reset.presentFirst 0x1000000300000001)) (State.reset.faultedWith 4) ∧
    (State.reset.faultedWith 4).status ≠ (State.reset.presentFirst 0x1000000300000001).status := by
  decide

theorem test_witness_FaultedModeExecutesOnlyRegRead :
    stateFaulted.mode = .faulted ∧
    (stateFaulted.presentFirst 0x2000000900000000).pending = .command 0x2000000900000000 :: [] ∧
    decode 0x2000000900000000 = .ok (.regRead 9) ∧ RegName.ofIndex 9 = some .endColor ∧
    decode 0x2000000A00000000 = .ok (.regRead 10) ∧
    (∀ idx, decode 0x2000000A00000000 = .ok (.regRead idx) → 10 ≤ idx.toNat) ∧
    (∀ idx, decode 0x0000000000000000 = .ok (.regRead idx) → 10 ≤ idx.toNat) := by decide

theorem test_witness_FaultIsTerminalUntilReset : stateFaulted.mode = .faulted ∧
    nextIs (runSteps 2 (stateFaulted.withCommands [0x1000000000000001, 0x2000000100000000]))
      { stateFaulted with responses := [⟨.faulted, 4⟩, ⟨.ok, 0x41⟩] } := by decide

theorem test_witness_NopAnswersZeroAndChangesNothing :
    State.reset.mode = .run ∧ stateFaulted.mode = .faulted ∧
    (0x0800000000000000#64).extractLsb' 60 4 = 0 ∧
    (0x0800000000000000#64).extractLsb' 0 60 ≠ 0 := by decide

/-- One state and value for each branch: V71, V72, V45, V77, V89, V79, V82, then the completing writes
of V68, V69 and of one Cue field. -/
theorem test_witness_RegWriteFollowsItsChecksInOrder :
    State.reset.mode = .run ∧ stateA.mode = .run ∧
    nextIs (exec (.regWrite 1 0) State.reset) (State.reset.faultedWith 3) ∧
    nextIs (exec (.regWrite 10 0) State.reset) (State.reset.faultedWith 3) ∧
    nextIs (exec (.regWrite 2 4095) State.reset) (State.reset.faultedWith 4) ∧
    nextIs (exec (.regWrite 2 4096) stateA) (stateA.faultedWith 5) ∧
    nextIs (exec (.regWrite 6 5) stateA) (stateA.faultedWith 5) ∧
    nextIs (exec (.regWrite 4 0) stateA) (stateA.faultedWith 6) ∧
    nextIs (exec (.regWrite 5 0) stateA) (stateA.faultedWith 7) ∧
    nextIs (exec (.regWrite 0 1) State.reset) (stateA.answeredOk 0) ∧
    nextIs (exec (.regWrite 0 0) State.reset) (State.reset.answeredOk 0) ∧
    nextIs (exec (.regWrite 9 0xFFFFFF) stateA)
      (State.answeredOk (running 1 { Cue.default with endColor := 0xFFFFFF }) 0) := by decide

theorem test_witness_LegalCueFieldWritesComplete :
    stateA.mode = .run ∧ stateA.ctrl.getLsbD 0 = true ∧ (4095#32).toNat < 4096 ∧ (1#32).toNat < 2 ∧
    (1 ≤ (1#32).toNat ∧ (65535#32).toNat < 65536) ∧ 6#32 ∈ [0#32, 1#32, 2#32, 6#32] ∧
    (255#32).toNat < 256 ∧ (0xFFFFFF#32).toNat < 16777216 := by decide

theorem test_witness_CtrlWriteActivatesOrReloadsTheDefaultCue :
    stateSrc.mode = .run ∧ 2 ≤ (2#32).toNat ∧
    nextIs (exec (.regWrite 0 2) stateSrc) (stateSrc.faultedWith 5) := by decide

theorem test_witness_RegReadAnswersTheRegister :
    stateSrc.Inv ∧ RegName.ofIndex 0 = some .ctrl ∧ RegName.ofIndex 9 = some .endColor ∧
    nextIs (exec (.regRead 5) stateSrc) (stateSrc.answeredOk 1200) := by decide

theorem test_witness_ReservedIndicesFaultWithBadRegister :
    State.reset.mode = .run ∧ 10 ≤ (10#4).toNat ∧ 10 ≤ (15#4).toNat := by decide

theorem test_witness_CueFieldWriteNeedsAnActiveCue :
    State.reset.mode = .run ∧ State.reset.ctrl.getLsbD 0 = false ∧ 2 ≤ (2#4).toNat ∧
    (9#4).toNat ≤ 9 := by decide

theorem test_witness_RegisterAccessesHaveTheirSideEffectsOnly :
    (9#4).toNat ≤ 9 ∧ stateSrc.mode = .run ∧
    nextIs (exec (.regWrite 7 200) stateSrc)
      (State.answeredOk (running 1 { stateSrc.cue with rampRatio := 200 }) 0) ∧
    (7#4 ≠ 0 ∨ (200#32).getLsbD 0 = true) ∧ RegName.index .rampType ≠ 7 ∧
    nextIs (exec (.regWrite 0 0) stateSrc) (State.reset.answeredOk 0) ∧
    (0#32).getLsbD 0 = false ∧ State.reset.mode = .run ∧
    nextIs (exec (.regWrite 0 0) (State.reset.answeredOk 0))
      ((State.reset.answeredOk 0).answeredOk 0) := by decide

theorem test_witness_WrittenValueIsReadByTheNextCommand :
    stateA.mode = .run ∧
    nextIs (exec (.regWrite 8 0x7F14FF) stateA)
      (State.answeredOk (running 1 { Cue.default with startColor := 0x7F14FF }) 0) ∧
    (running 1 { Cue.default with startColor := 0x7F14FF }).mode = .run := by decide

theorem test_witness_DeactivationDiscardsTheCue : stateSrc.mode = .run := by decide

theorem test_witness_InterpolatorFollowsTheSourceAlgorithm :
    (255 : Nat) ≤ 255 ∧ 1 > 0 ∧ interp8 0 1 254 = 0 ∧ 0 ≤ 1 ∧ interp8 1 0 254 = 1 := by decide

/-- R113 (c), V47 and V48: a rising and a falling pair with two factors. -/
theorem test_witness_InterpolatorEndpointsAndMonotonicity :
    1 ≤ 2 ∧ 2 ≤ 255 ∧ 200 ≥ 10 ∧ interp8 10 200 1 = 10 ∧ interp8 10 200 2 = 11 ∧
    10 < 200 ∧ interp8 200 10 255 = 10 := by decide

theorem test_witness_InterpCommandAnswersTheInterpolation : State.reset.mode = .run := by decide

theorem test_witness_HslToRgbIsTheRoundedExactFormula :
    360 ≤ 360 ∧ 100 ≤ 100 ∧ hslToRgb .halfUp 360 100 50 = ⟨255, 0, 0⟩ ∧
    hslToRgb .trunc 30 100 50 = ⟨255, 127, 0⟩ := by decide

theorem test_witness_FromHslCommandConvertsInRange :
    State.reset.mode = .run ∧ (360#9).toNat ≤ 360 ∧ (100#7).toNat ≤ 100 := by decide

theorem test_witness_FromHslOutOfRangeFaults :
    State.reset.mode = .run ∧ (361#9).toNat > 360 ∧ (101#7).toNat > 100 := by decide

/-- A grey, and a largest channel of each kind (V140, V135, V136, V137). -/
theorem test_witness_RgbToHslIsTheRoundedExactFormula :
    max 128 (max 128 128) = min 128 (min 128 128) ∧
    max 255 (max 0 0) ≠ min 255 (min 0 0) ∧ max 255 (max 0 0) = 255 ∧
    rgbToHsl .halfUp ⟨0, 255, 0⟩ = ⟨120, 100, 50⟩ ∧ rgbToHsl .halfUp ⟨0, 0, 255⟩ = ⟨240, 100, 50⟩ := by
  decide

theorem test_witness_ToHslCommandPacksTheTriple : State.reset.mode = .run := by decide

theorem test_witness_MixRgbInterpolatesEachChannel : State.reset.mode = .run ∧ 255 ≤ 255 := by decide

/-- R121 at the boundaries 180 and -180 of the wrap, and one past each. -/
theorem test_witness_HueInterpolatorFollowsItsPath :
    (0 < 360 ∧ 359 < 360 ∧ 255 ≤ 255) ∧
    hueDelta .shortestPath true 0 180 = 180 ∧ hueDelta .shortestPath true 0 181 = -179 ∧
    hueDelta .shortestPath true 180 0 = -180 ∧ hueDelta .shortestPath true 181 0 = 179 ∧
    hueDelta .shortestPath false 0 359 = 359 := by decide

theorem test_witness_HueWrapSelectsTheShorterWay :
    0 < 360 ∧ 180 < 360 ∧ |((180 : Nat) : ℤ) - (0 : Nat)| ≤ 180 := by decide

theorem test_witness_MixHslConvertsInterpolatesConvertsBack : State.reset.mode = .run := by decide

theorem test_witness_MixersAtTheirEndpoints : 255 ≤ 255 := by decide

theorem test_witness_RatioSaturatorClampsAndTruncates :
    (0 : ℤ) ≤ 0 ∧ (65536 : ℤ) ≤ 65536 ∧ ((0 : ℤ) < 65535 ∧ (65535 : ℤ) < 65536) ∧
    ratioSat 65535 = 255 ∧ ratioSat 1 = 0 := by decide

theorem test_witness_RatioSatCommandReadsASignedOperand : State.reset.mode = .run := by decide

theorem test_witness_RatioFixIsExactAndTakenBack : State.reset.mode = .run := by decide

/-- Both clauses: a duration of 0, and state SRC at channel 11 and the last time. -/
theorem test_witness_ProgressFollowsThePhaseOffset :
    4294967295 < 4294967296 ∧ 11 ≤ 11 ∧
    (running 1 { Cue.default with durationMs := 0 }).dur = 0 ∧
    1 ≤ stateSrc.dur ∧ 1 ≤ stateSrc.td := by decide

theorem test_witness_ProgressCommandAnswersProgress :
    stateSrc.mode = .run ∧ (11#4).toNat < 12 := by decide

theorem test_witness_ChannelOutOfRangeFaults :
    State.reset.mode = .run ∧ 12 ≤ (12#4).toNat ∧ 12 ≤ (15#4).toNat := by decide

/-- E4: channels 8 and 2 of state SRC, 6 apart. -/
theorem test_witness_ProgressIsPeriodicAndPhaseShifted :
    8 ≤ 11 ∧ 2 ≤ 11 ∧ 1 ≤ stateSrc.td ∧ stateSrc.td ∣ stateSrc.dur * 6 ∧
    effectiveChannel stateSrc.rev 8 = effectiveChannel stateSrc.rev 2 + 6 := by decide

/-- Table 2.10: RR = 0, RR = 128 on both edges, RR = 255. -/
theorem test_witness_MixingFactorRisesAndFalls :
    255 ≤ 255 ∧ (0 ≤ 0 ∧ mixingFactor 0 0 = 255) ∧ (1 ≤ 128 ∧ mixingFactor 128 1 = 2) ∧
    (128 < 129 ∧ mixingFactor 128 129 = 253) ∧ 128 < 255 ∧ mixingFactor 255 1 = 1 := by decide

theorem test_witness_MixFactorCommandAnswersTheFactor : State.reset.mode = .run := by decide

/-- One state for each clause: inactive, Jump, LinearRGB, LinearHSL. -/
theorem test_witness_CurrentColorSelectsTheRamp :
    State.reset.mode = .run ∧ (11#4).toNat < 12 ∧ State.reset.ctrl.getLsbD 0 = false ∧
    (stateRamp 0 128).mode = .run ∧ (stateRamp 0 128).ctrl.getLsbD 0 = true ∧
    (stateRamp 0 128).cue.rampType.extractLsb' 0 2 = 0 ∧
    (stateRamp 1 128).cue.rampType.extractLsb' 0 2 = 1 ∧
    (stateRamp 6 128).cue.rampType.extractLsb' 0 2 = 2 := by decide

theorem test_witness_BlackCueIsBlackAtEveryTime :
    stateSrc.Inv ∧ stateSrc.mode = .run ∧ stateSrc.cue.startColor = 0 ∧ stateSrc.cue.endColor = 0 ∧
    (11#4).toNat < 12 := by decide

theorem test_witness_InactiveBlockEvaluatesTheDefaultCue :
    State.reset.Inv ∧ State.reset.mode = .run ∧ State.reset.ctrl.getLsbD 0 = false ∧
    (11#4).toNat < 12 := by decide

theorem test_witness_ChannelMaskIsReadByNoCommand :
    Instr.progress 11 0 ≠ .regRead 0x2 ∧ RegName.reverse ≠ .chanMask ∧
    nextIs (exec (.progress 11 0) stateSrc) (stateSrc.answeredOk 0xEA) := by decide

/-- R258: ACTIVATE and a read of CTRL end well and are observed so; an illegal opcode does not end
well. -/
theorem test_run_ends :
    nextIs (runOf [0x1000000000000001, 0x2000000000000000])
      { stateA with responses := [⟨.ok, 0⟩, ⟨.ok, 1⟩] } ∧
    State.observe { stateA with responses := [⟨.ok, 0⟩, ⟨.ok, 1⟩] } =
      ([⟨.ok, 0⟩, ⟨.ok, 1⟩], .run, [1, 0, 0xFFF, 0, 1, 1, 0, 0, 0, 0]) ∧
    nextIs (runOf [0xD000000000000000]) (State.reset.faultedWith 1) := by decide
theorem test_endsWell : EndsWell (.next stateA) ∧ ¬ EndsWell (.next stateFaulted) :=
  ⟨rfl, fun h => nomatch h⟩

theorem test_witness_HarmlessContextsDoNotInterfere :
    IsMerge [false, true, false] [0x1000000000000001#64] [0x2000000900000000#64, 0xA000000B00000000#64]
      [0x2000000900000000#64, 0x1000000000000001#64, 0xA000000B00000000#64] ∧
    (∀ w ∈ [0x2000000900000000#64, 0xA000000B00000000#64],
      ∃ i, decode w = .ok i ∧ isHarmless i = true) := by
  refine ⟨.right _ (.left _ (.right _ .done)), ?_⟩
  intro w hw
  rcases List.mem_cons.1 hw with rfl | hw
  · exact ⟨.regRead 9, by decide, by decide⟩
  · rw [List.mem_singleton.1 hw]
    exact ⟨.progress 11 0, by decide, by decide⟩

end Sys2Proof.Tests
end

section
/-! PROOFS. Fault entry (60_exceptions.md R223): a command or a step that leads from RUN to FAULTED is a
`raise`, and a raise is `faultedWith` a code of R220's table. -/

namespace Sys2Proof.Machine

/-- A command that leads from RUN to FAULTED mode raised a fault: a REG_WRITE's write and an OK answer
keep the mode. -/
theorem exec_raise_of_run_of_faulted {i : Instr} {s t : State} (hs : s.mode = .run)
    (he : exec i s = .next t) (ht : t.mode = .faulted) : ∃ c, t = s.raise c := by
  rcases exec_cases i s with ⟨d, h⟩ | ⟨idx, v, r, -, -, -, -, h⟩ | ⟨c, -, h⟩ | ⟨hm, -⟩
  case inl =>
    cases h.symm.trans he
    simp [hs] at ht
  case inr.inl =>
    cases h.symm.trans he
    simp [hs] at ht
  case inr.inr.inl =>
    cases h.symm.trans he
    exact ⟨c, rfl⟩
  case inr.inr.inr =>
    simp [hs] at hm

/-- In RUN mode a word that does not decode raises its cause (R86, R87). -/
theorem rejectWord_of_run {s : State} (hs : s.mode = .run) (e : DecodeError) :
    s.rejectWord e = .next (s.raise (decodeCause e)) :=
  inRun_of_run hs _

/-- What a step does with a command word at the head of the port (R87). -/
theorem step_command_cases {s : State} {w : Word64} {rest : List HostAction}
    (hp : s.pending = .command w :: rest) :
    (∃ i, decode w = .ok i ∧ step s = exec i { s with pending := rest }) ∨
    (∃ e, decode w = .error e ∧ step s = State.rejectWord { s with pending := rest } e) := by
  rcases step_cases s with ⟨h, -⟩ | ⟨_, h, -⟩ | ⟨_, _, i, h, hd, hstep⟩ | ⟨_, _, e, h, hd, hstep⟩
  case inl | inr.inl => simp [hp] at h
  case inr.inr.inl =>
    cases hp.symm.trans h
    exact .inl ⟨i, hd, hstep⟩
  case inr.inr.inr =>
    cases hp.symm.trans h
    exact .inr ⟨e, hd, hstep⟩

/-- A command word that leads from RUN to FAULTED mode raised a fault, in its decoding or in its
execution. -/
theorem step_raise_of_run_of_faulted {s t : State} {w : Word64} {rest : List HostAction}
    (hs : s.mode = .run) (hp : s.pending = .command w :: rest) (hstep : step s = .next t)
    (ht : t.mode = .faulted) : ∃ c, t = State.raise { s with pending := rest } c := by
  rcases step_command_cases hp with ⟨i, -, h⟩ | ⟨e, -, h⟩
  · exact exec_raise_of_run_of_faulted hs (h.symm.trans hstep) ht
  · have hraise := rejectWord_of_run (s := { s with pending := rest }) hs e
    cases (h.trans hraise).symm.trans hstep
    exact ⟨decodeCause e, rfl⟩

/-- Settles O17: the step raised some cause, and a raise is `faultedWith` its code. -/
theorem faultEntrySavesTheCauseAndNothingElse :
    Obligations.FaultEntrySavesTheCauseAndNothingElse := by
  intro s t w rest hs hp hstep ht
  obtain ⟨c, rfl⟩ := step_raise_of_run_of_faulted hs hp hstep ht
  obtain ⟨hlow, hhigh⟩ := cause_code_range c
  exact ⟨c.code.toNat, hlow, hhigh, raise_eq_faultedWith _ c⟩

end Sys2Proof.Machine
end

section
/-! PROOFS. The register file (10_state.md R22, R201): when a word fits a register's fields, and what a
REG_WRITE or a REG_READ answers once its checks are decided. -/

namespace Sys2Proof.Machine

/-! ### Words that fit a field mask -/

/-- A word has no bit outside a mask exactly when masking leaves it as it is. -/
theorem and_not_eq_zero_iff {n : Nat} (v m : BitVec n) : v &&& ~~~ m = 0 ↔ v &&& m = v := by
  have hbit : v = (v &&& m) ||| (v &&& ~~~ m) := by
    rw [← BitVec.and_or_distrib_left, BitVec.or_not_self, BitVec.and_allOnes]
  constructor
  · intro h
    rw [h] at hbit
    simpa using hbit.symm
  · intro h
    rw [← h, BitVec.and_assoc, BitVec.and_not_self]
    exact BitVec.and_zero

/-- A word fits a field of its low `k` bits exactly when it is below `2 ^ k`. -/
theorem and_not_lowMask_eq_zero_iff (v : Word32) {k : Nat} (hk : k ≤ 32) :
    v &&& ~~~ BitVec.ofNat 32 (2 ^ k - 1) = 0 ↔ v.toNat < 2 ^ k := by
  have hpow : 2 ^ k ≤ 2 ^ 32 := Nat.pow_le_pow_right (by decide) hk
  have hpos : 0 < 2 ^ k := Nat.two_pow_pos k
  rw [and_not_eq_zero_iff, ← BitVec.toNat_inj, BitVec.toNat_and, BitVec.toNat_ofNat,
    Nat.mod_eq_of_lt (by omega), Nat.and_two_pow_sub_one_eq_mod]
  exact Nat.mod_eq_iff_lt hpos.ne'

/-- A word that is not 0 and fits a 16-bit field leaves that field at least 1 (R27, R28). -/
theorem one_le_lowHalf {v : Word32} (hmask : v &&& ~~~ 0xFFFF = 0) (hv : v ≠ 0) :
    1 ≤ (v.extractLsb' 0 16).toNat := by
  have hlt : v.toNat < 65536 := (and_not_lowMask_eq_zero_iff v (k := 16) (by decide)).1 hmask
  have hne : v.toNat ≠ 0 := fun h => hv (BitVec.eq_of_toNat_eq h)
  rw [BitVec.extractLsb'_toNat, Nat.shiftRight_zero]
  omega

/-- The bits of STATUS that a field occupies: CAUSE in bits 7 to 4 and FAULT in bit 0 (R24). -/
theorem and_statusMask (x : Word32) : x &&& 0xF1 =
    BitVec.ofNat 32 (16 * (x.extractLsb' 4 4).toNat + (x.extractLsb' 0 1).toNat) := by
  have hlow : x &&& 0xF1 = (x.extractLsb' 0 8 &&& 0xF1).setWidth 32 := by
    apply BitVec.eq_of_getLsbD_eq
    intro k hk
    simp only [BitVec.getLsbD_and, BitVec.getLsbD_setWidth, BitVec.getLsbD_extractLsb']
    interval_cases k <;> simp
  have hcause : x.extractLsb' 4 4 = (x.extractLsb' 0 8).extractLsb' 4 4 := by
    rw [BitVec.extractLsb'_extractLsb'_of_le (by decide)]
  have hfault : x.extractLsb' 0 1 = (x.extractLsb' 0 8).extractLsb' 0 1 := by
    rw [BitVec.extractLsb'_extractLsb'_of_le (by decide)]
  rw [hlow, hcause, hfault]
  generalize x.extractLsb' 0 8 = y
  revert y
  decide

/-! ### Register writes -/

/-- No write that passes its checks touches STATUS (R24, R201). -/
theorem writeReg_status {s : State} {r : RegName} {v : Word32} (h : s.writeFault r v = none) :
    (s.writeReg r v).status = s.status := by
  obtain ⟨hne, -⟩ := (writeFault_eq_none_iff s r v).1 h
  cases r
  case status => exact absurd rfl hne
  case ctrl => rcases writeReg_ctrl s v with ⟨-, h⟩ | ⟨-, h⟩ <;> rw [h]
  all_goals rfl

/-- A REG_WRITE in RUN mode whose checks pass completes (R201). -/
theorem exec_regWrite_completes {s : State} {r : RegName} {v : Word32} (hm : s.mode = .run)
    (hf : s.writeFault r v = none) :
    exec (.regWrite r.index v) s = .next ((s.writeReg r v).ok 0) := by
  simp [exec, execRegWrite, hf, hm]

/-- A REG_WRITE in RUN mode that fails a check raises its cause (R201). -/
theorem exec_regWrite_faults {s : State} {r : RegName} {v : Word32} {c : Cause} (hm : s.mode = .run)
    (hf : s.writeFault r v = some c) : exec (.regWrite r.index v) s = .next (s.raise c) := by
  simp [exec, execRegWrite, hf, hm]

/-- In RUN mode with a Cue active a legal word is written to a Cue register and to no other (R201). -/
theorem exec_regWrite_of_active {s : State} {r : RegName} {v : Word32} (hm : s.mode = .run)
    (ha : s.ctrl.getLsbD 0 = true) (hctrl : r ≠ .ctrl) (hstatus : r ≠ .status)
    (hmask : v &&& ~~~ r.fieldMask = 0) (hramp : r = .rampType → legalRamp v = true)
    (hdivisor : r = .timeDivisor → v ≠ 0) (hduration : r = .durationMs → v ≠ 0) :
    exec (.regWrite r.index v) s = .next ((s.setReg r v).answeredOk 0) := by
  have hf := (writeFault_eq_none_iff s r v).2 ⟨hstatus, .inr ha, hmask, hramp, hdivisor, hduration⟩
  rw [exec_regWrite_completes hm hf, writeReg_of_ne_ctrl s v hctrl]
  rfl

/-- Settles O24: each legal range is the register's field mask, with the further check of TIME_DIVISOR,
DURATION_MS and RAMP_TYPE. -/
theorem legalCueFieldWritesComplete : Obligations.LegalCueFieldWritesComplete := by
  intro s v hm ha
  have fits (k : Nat) (hk : k ≤ 32) := (and_not_lowMask_eq_zero_iff v hk).2
  have nonzero (h : 1 ≤ v.toNat) : v ≠ 0 := by rintro rfl; simp at h
  have write (r : RegName) := exec_regWrite_of_active (r := r) (v := v) hm ha
  refine ⟨fun h => ?_, fun h => ?_, fun h => ?_, fun h => ?_, fun h => ?_, fun h => ?_, fun h => ?_,
    fun h => ?_⟩
  · exact write .chanMask nofun nofun (fits 12 (by decide) h) nofun nofun nofun
  · exact write .reverse nofun nofun (fits 1 (by decide) h) nofun nofun nofun
  · exact write .timeDivisor nofun nofun (fits 16 (by decide) h.2) nofun (fun _ => nonzero h.1) nofun
  · exact write .durationMs nofun nofun (fits 16 (by decide) h.2) nofun nofun (fun _ => nonzero h.1)
  · have hlegal : ∀ v ∈ [0#32, 1#32, 2#32, 6#32],
        v &&& ~~~ RegName.rampType.fieldMask = 0 ∧ legalRamp v = true := by
      simp [RegName.fieldMask, legalRamp]
    obtain ⟨hmask, hramp⟩ := hlegal v h
    exact write .rampType nofun nofun hmask (fun _ => hramp) nofun nofun
  · exact write .rampRatio nofun nofun (fits 8 (by decide) h) nofun nofun nofun
  · exact write .startColor nofun nofun (fits 24 (by decide) h) nofun nofun nofun
  · exact write .endColor nofun nofun (fits 24 (by decide) h) nofun nofun nofun

/-- Settles O25: CTRL has the one field ACTIVE, so 0 and 1 are the words that fit it. -/
theorem ctrlWriteActivatesOrReloadsTheDefaultCue :
    Obligations.CtrlWriteActivatesOrReloadsTheDefaultCue := by
  refine ⟨fun s hm => ⟨?_, ?_, fun v hv => ?_⟩, by decide, rfl⟩
  · exact exec_regWrite_completes (r := .ctrl) hm (by simp [writeFault_eq_none_iff])
  · exact exec_regWrite_completes (r := .ctrl) hm
      ((writeFault_eq_none_iff _ _ _).2 ⟨nofun, .inl rfl, by decide, nofun, nofun, nofun⟩)
  · have hmask : v &&& ~~~ RegName.ctrl.fieldMask ≠ 0 := fun h =>
      absurd ((and_not_lowMask_eq_zero_iff v (k := 1) (by decide)).1 h) (by omega)
    have hf : s.writeFault .ctrl v = some .illegalValue := by
      simpa [State.writeFault] using hmask
    exact (exec_regWrite_faults hm hf).trans (congrArg _ (raise_eq_faultedWith s .illegalValue))

/-- Settles O27: no register stands at an index from 10 up. -/
theorem reservedIndicesFaultWithBadRegister : Obligations.ReservedIndicesFaultWithBadRegister := by
  intro s idx v hm hidx
  have hnone := (ofIndex_eq_none_iff idx).2 hidx
  have hraise : s.inRun (s.raise .badRegister) = .next (s.faultedWith 3) := by
    rw [inRun_of_run hm, raise_eq_faultedWith]
    rfl
  constructor
  · simpa only [exec, execRegRead, hnone] using hraise
  · simpa only [exec, execRegWrite, hnone] using hraise

end Sys2Proof.Machine
end

section
/-! PROOFS. The invariant of 10_state.md R39: it speaks of the block only, reset meets it, and each of the
ways a step can change the block keeps it. -/

namespace Sys2Proof.Machine

/-! ### The invariant's parts -/

/-- The reserved bits are 0 exactly when every stored word fits its register's fields (R22). -/
theorem reservedBitsZero_iff (s : State) :
    s.ReservedBitsZero ↔ ∀ r, s.stored r &&& ~~~ r.fieldMask = 0 := by
  constructor
  · rintro ⟨hctrl, hstatus, hmask, hrev, htd, hdur, hramp, hratio, hstart, hend⟩ r
    cases r <;> assumption
  · intro h
    exact ⟨h .ctrl, h .status, h .chanMask, h .reverse, h .timeDivisor, h .durationMs, h .rampType,
      h .rampRatio, h .startColor, h .endColor⟩

/-- The invariant reads the mode and the registers, not the port. -/
theorem inv_of_sameBlock {s t : State} (h : SameBlock s t) (hs : s.Inv) : t.Inv := by
  obtain ⟨mode, ctrl, status, cue, _, _⟩ := s
  obtain ⟨_, _, _, _, _, _⟩ := t
  obtain ⟨rfl, rfl, rfl, rfl⟩ := h
  exact hs

/-! ### The ways the block changes -/

/-- Settles O14, by evaluating the invariant on the reset state. -/
theorem resetStateMeetsTheRegisterInvariant : Obligations.ResetStateMeetsTheRegisterInvariant := by
  unfold Obligations.ResetStateMeetsTheRegisterInvariant
  decide

theorem hostReset_inv (s : State) : s.hostReset.Inv :=
  inv_of_sameBlock (s := State.reset) ⟨rfl, rfl, rfl, rfl⟩ resetStateMeetsTheRegisterInvariant

theorem respond_inv {s : State} (st : RespStatus) (d : Word32) (hs : s.Inv) : (s.respond st d).Inv :=
  inv_of_sameBlock ⟨rfl, rfl, rfl, rfl⟩ hs

/-- A fault entry writes a STATUS with FAULT = 1, a cause that is not 0 and no reserved bit (R223). -/
theorem raise_inv {s : State} (c : Cause) (hs : s.Inv) : (s.raise c).Inv := by
  obtain ⟨htd, hdur, hramp, ⟨hctrl, -, hcue⟩, hdefault, -⟩ := hs
  have hreserved : faultStatus c &&& ~~~ 0xF1 = 0 := by cases c <;> decide
  have hfault : (faultStatus c).extractLsb' 0 1 = 1 := by cases c <;> decide
  have hcause : (faultStatus c).extractLsb' 4 4 ≠ 0 := by cases c <;> decide
  refine ⟨htd, hdur, hramp, ⟨hctrl, hreserved, hcue⟩, hdefault, ?_, ?_⟩
  · exact iff_of_true hfault rfl
  · exact iff_of_false hcause (by rw [State.statusFault, State.raise_status, hfault]; decide)

/-- What holds of a register's word holds after a register write, if it holds of the word written. -/
theorem stored_setReg_of {P : Word32 → Prop} {s : State} {r q : RegName} {v : Word32}
    (hsame : r = q → P v) (hother : P (s.stored q)) : P ((s.setReg r v).stored q) := by
  by_cases h : r = q
  · subst h
    rw [stored_setReg_same]
    exact hsame rfl
  · rw [stored_setReg_other s v (Ne.symm h)]
    exact hother

/-- Replacing a Cue register by a word that passes its checks while ACTIVE = 1 keeps the invariant. -/
theorem setReg_inv {s : State} {r : RegName} {v : Word32} (hs : s.Inv) (hr : r ≠ .ctrl)
    (hf : s.writeFault r v = none) : (s.setReg r v).Inv := by
  obtain ⟨htd, hdur, hramp, hreserved, -, hstatus⟩ := hs
  obtain ⟨hne, hctrl, hmask, hlegal, hdivisor, hduration⟩ := (writeFault_eq_none_iff s r v).1 hf
  have htd' : 1 ≤ (s.setReg r v).td :=
    stored_setReg_of (q := .timeDivisor) (P := fun x => 1 ≤ (x.extractLsb' 0 16).toNat)
      (fun h => one_le_lowHalf (by subst h; exact hmask) (hdivisor h)) htd
  have hdur' : 1 ≤ (s.setReg r v).dur :=
    stored_setReg_of (q := .durationMs) (P := fun x => 1 ≤ (x.extractLsb' 0 16).toNat)
      (fun h => one_le_lowHalf (by subst h; exact hmask) (hduration h)) hdur
  have hramp' : (s.setReg r v).RampLegal :=
    stored_setReg_of (q := .rampType)
      (P := fun x => x.extractLsb' 0 3 ∈ [0b000#3, 0b001#3, 0b010#3, 0b110#3])
      (fun h => (legalRamp_iff v).1 (hlegal h)) hramp
  have hreserved' : (s.setReg r v).ReservedBitsZero :=
    (reservedBitsZero_iff _).2 fun q => stored_setReg_of (P := fun x => x &&& ~~~ q.fieldMask = 0)
      (fun h => h ▸ hmask) ((reservedBitsZero_iff s).1 hreserved q)
  have hactive' : (s.setReg r v).active = true :=
    stored_setReg_of (q := .ctrl) (P := fun x => x.getLsbD 0 = true) (fun h => absurd h hr)
      (hctrl.resolve_left hr)
  have hkept : (s.setReg r v).status = s.status := stored_setReg_other s v (Ne.symm hne)
  refine ⟨htd', hdur', hramp', hreserved', fun h => absurd hactive' (by simp [h]), ?_⟩
  simpa only [State.StatusAgrees, State.statusFault, State.statusCause, hkept, State.setReg_mode]
    using hstatus

/-- A REG_WRITE that passes its checks keeps the invariant: CTRL with ACTIVE = 0 reloads the default
Cue, and the other registers take a word that fits them (R201). -/
theorem writeReg_inv {s : State} {r : RegName} {v : Word32} (hs : s.Inv)
    (hf : s.writeFault r v = none) : (s.writeReg r v).Inv := by
  by_cases hr : r = .ctrl
  · subst hr
    obtain ⟨htd, hdur, hramp, ⟨-, hstatus, hcue⟩, -, hagrees⟩ := hs
    obtain ⟨htd₀, hdur₀, hramp₀, ⟨hctrl₀, -, hcue₀⟩, -⟩ := resetStateMeetsTheRegisterInvariant
    have hone : (1 : Word32) &&& ~~~ 0x1 = 0 ∧ (1 : Word32).getLsbD 0 ≠ false := by decide
    obtain ⟨hctrl, hactive⟩ := hone
    rcases writeReg_ctrl s v with ⟨-, h⟩ | ⟨-, h⟩ <;> rw [h]
    · exact ⟨htd, hdur, hramp, ⟨hctrl, hstatus, hcue⟩, fun h => absurd h hactive, hagrees⟩
    · exact ⟨htd₀, hdur₀, hramp₀, ⟨hctrl₀, hstatus, hcue₀⟩, fun _ => rfl, hagrees⟩
  · rw [writeReg_of_ne_ctrl s v hr]
    exact setReg_inv hs hr hf

/-! ### Commands and steps -/

theorem exec_inv {i : Instr} {s t : State} (hs : s.Inv) (he : exec i s = .next t) : t.Inv := by
  rcases exec_cases i s with ⟨d, h⟩ | ⟨idx, v, r, -, -, -, hf, h⟩ | ⟨c, -, h⟩ | ⟨-, h⟩ <;>
    cases h.symm.trans he
  · exact respond_inv _ _ hs
  · exact respond_inv _ _ (writeReg_inv hs hf)
  · exact raise_inv c hs
  · exact respond_inv _ _ hs

theorem rejectWord_inv {s t : State} {e : DecodeError} (hs : s.Inv) (h : s.rejectWord e = .next t) :
    t.Inv := by
  rcases inRun_next h with ⟨-, rfl⟩ | ⟨-, rfl⟩
  · exact raise_inv _ hs
  · exact respond_inv _ _ hs

/-- Settles O15: a step idles, resets, executes a command or rejects a word. -/
theorem everyStepKeepsTheRegisterInvariant : Obligations.EveryStepKeepsTheRegisterInvariant := by
  intro s t hs hstep
  have htaken (rest : List HostAction) : State.Inv { s with pending := rest } :=
    inv_of_sameBlock ⟨rfl, rfl, rfl, rfl⟩ hs
  rcases step_cases s with ⟨-, h⟩ | ⟨rest, -, h⟩ | ⟨w, rest, i, -, -, h⟩ | ⟨w, rest, e, -, -, h⟩
  case inl => cases h.symm.trans hstep; exact hs
  case inr.inl => cases h.symm.trans hstep; exact hostReset_inv _
  case inr.inr.inl => exact exec_inv (htaken rest) (h.symm.trans hstep)
  case inr.inr.inr => exact rejectWord_inv (htaken rest) (h.symm.trans hstep)

/-! ### Reachable states -/

theorem reachable_inv {s : State} (h : Reachable s) : s.Inv := by
  induction h with
  | reset => exact resetStateMeetsTheRegisterInvariant
  | present a _ ih => exact inv_of_sameBlock ⟨rfl, rfl, rfl, rfl⟩ ih
  | step _ hstep ih => exact everyStepKeepsTheRegisterInvariant _ _ ih hstep

/-- STATUS.FAULT as a bit of the register (R24). -/
theorem statusFault_eq (s : State) : s.statusFault = BitVec.ofBool (s.status.getLsbD 0) := by
  apply BitVec.eq_of_getLsbD_eq
  intro k hk
  obtain rfl : k = 0 := by omega
  simp [State.statusFault]

/-- Settles O16: the invariant with its masks and the default Cue written out. -/
theorem reachableStatesMeetTheRegisterInvariant :
    Obligations.ReachableStatesMeetTheRegisterInvariant := by
  intro s h
  obtain ⟨htd, hdur, hramp, hreserved, hdefault, hmode, hcause⟩ := reachable_inv h
  have hone : ∀ b : Bool, BitVec.ofBool b = 1 ↔ b = true := by decide
  have hzero : ∀ b : Bool, BitVec.ofBool b = 0 ↔ b = false := by decide
  rw [statusFault_eq, hone] at hmode
  rw [statusFault_eq, hzero] at hcause
  exact ⟨htd, hdur, hramp, hreserved, hdefault, hmode, hcause⟩

/-! ### What changes STATUS, CTRL and the Cue -/

/-- Settles O13: an OK answer and the FAULTED answer leave the block, a fault entry moves the mode and
STATUS. -/
theorem onlyRegWriteChangesCueAndCtrl : Obligations.OnlyRegWriteChangesCueAndCtrl := by
  intro i s t hi he
  rcases exec_cases i s with ⟨d, h⟩ | ⟨idx, v, _, rfl, -⟩ | ⟨c, hm, h⟩ | ⟨-, h⟩
  case inr.inl => exact absurd rfl (hi idx v)
  case inr.inr.inl => cases h.symm.trans he; exact ⟨rfl, rfl, rfl, .inr ⟨hm, rfl⟩⟩
  case inl | inr.inr.inr => cases h.symm.trans he; exact ⟨rfl, rfl, rfl, .inl ⟨rfl, rfl⟩⟩

/-- A command changes STATUS by a fault entry only (R24). -/
theorem exec_status {i : Instr} {s t : State} (he : exec i s = .next t) :
    t.status = s.status ∨ (s.mode = .run ∧ t.mode = .faulted) := by
  rcases exec_cases i s with ⟨d, h⟩ | ⟨idx, v, r, -, -, -, hf, h⟩ | ⟨c, hm, h⟩ | ⟨-, h⟩ <;>
    cases h.symm.trans he
  · exact .inl rfl
  · exact .inl (writeReg_status hf)
  · exact .inr ⟨hm, rfl⟩
  · exact .inl rfl

/-- Settles O19: an idle step holds STATUS, and a word moves it by a fault entry only. -/
theorem statusMovesOnlyAtFaultEntryAndReset : Obligations.StatusMovesOnlyAtFaultEntryAndReset := by
  intro s t hstep hne
  rcases step_cases s with ⟨-, h⟩ | ⟨rest, hp, -⟩ | ⟨w, rest, i, -, -, h⟩ | ⟨w, rest, e, -, -, h⟩
  case inl => cases h.symm.trans hstep; exact absurd rfl hne
  case inr.inl => exact .inl ⟨rest, hp⟩
  case inr.inr.inl => exact .inr ((exec_status (h.symm.trans hstep)).resolve_left hne)
  case inr.inr.inr =>
    rcases inRun_next (h.symm.trans hstep) with ⟨hm, rfl⟩ | ⟨-, rfl⟩
    · exact .inr ⟨hm, rfl⟩
    · exact absurd rfl hne

/-! ### Register reads -/

/-- A REG_READ of an implemented index answers the register in either mode (R202, R225). -/
theorem exec_regRead_of_ofIndex {idx : BitVec 4} {r : RegName} (s : State)
    (h : RegName.ofIndex idx = some r) : exec (.regRead idx) s = .next (s.answeredOk (s.readReg r)) := by
  simp only [exec, execRegRead, h]
  rfl

/-- Under the invariant a register reads as it is stored (R36, R39). -/
theorem readReg_eq_stored {s : State} (hs : s.Inv) (r : RegName) : s.readReg r = s.stored r := by
  obtain ⟨-, -, -, hreserved, -⟩ := hs
  exact (and_not_eq_zero_iff _ _).1 ((reservedBitsZero_iff s).1 hreserved r)

/-- Settles O26: STATUS is the one register whose fields are not its low bits. -/
theorem regReadAnswersTheRegister : Obligations.RegReadAnswersTheRegister := by
  intro s
  have read (r : RegName) := exec_regRead_of_ofIndex s (ofIndex_index r)
  refine ⟨read .ctrl, ?_, read .chanMask, read .reverse, read .timeDivisor, read .durationMs,
    read .rampType, read .rampRatio, read .startColor, read .endColor, fun hs idx r hr => ?_⟩
  · rw [← and_statusMask]
    exact read .status
  · rw [exec_regRead_of_ofIndex s hr, readReg_eq_stored hs]

end Sys2Proof.Machine
end

section
/-! PROOFS. The default Cue and black Cues (10_state.md R34): black stays black through both mixers, and
with no active Cue the evaluation commands answer from the default Cue. -/

namespace Sys2Proof.Machine

/-! ### The evaluation commands in RUN mode -/

theorem exec_progress_of_run {s : State} {ch : BitVec 4} (hm : s.mode = .run) (hch : ch.toNat < 12)
    (time : Word32) : exec (.progress ch time) s =
      .next (s.answeredOk (byteWord (s.progress time.toNat ch.toNat))) := by
  simp [exec, execProgress, channelInRange, hm, hch, ok_eq]

theorem exec_currentColor_of_run {s : State} {ch : BitVec 4} (hm : s.mode = .run)
    (hch : ch.toNat < 12) (time : Word32) : exec (.currentColor ch time) s =
      .next (s.answeredOk (s.currentColor time ch).word) := by
  simp [exec, execCurrentColor, channelInRange, hm, hch, ok_eq]

theorem exec_mixFactor_of_run {s : State} (hm : s.mode = .run) (p : BitVec 8) :
    exec (.mixFactor p) s = .next (s.answeredOk (byteWord (mixingFactor s.rr p.toNat))) :=
  inRun_of_run hm _

/-! ### Black -/

@[simp] theorem black_word : Color.black.word = 0 := by decide

@[simp] theorem interp8_self (a f : Nat) : interp8 a a f = a := by
  simp [interp8, absDiff]

@[simp] theorem interpHue_zero_zero (mode : HueWrapMode) (wrap : Bool) (f : Nat) :
    interpHue mode wrap 0 0 f = 0 := by
  simp [interpHue, hueDelta]

@[simp] theorem mixRgb_self (c : Color) (f : Nat) : mixRgb c c f = c := by
  simp [mixRgb]

@[simp] theorem rgbToHsl_black (mode : ConvRound) : rgbToHsl mode Color.black = ⟨0, 0, 0⟩ := by
  cases mode <;> decide

@[simp] theorem hslToRgb_black (mode : ConvRound) : hslToRgb mode 0 0 0 = Color.black := by
  cases mode <;> decide

@[simp] theorem mixHsl_black (round : ConvRound) (hue : HueWrapMode) (f : Nat) (wrap : Bool) :
    mixHsl round hue Color.black Color.black f wrap = Color.black := by
  simp [mixHsl]

/-- The four legal ramps have one of the three ramp types (R29). -/
theorem rampKind_of_legal {s : State} (h : s.RampLegal) :
    s.rampKind = 0 ∨ s.rampKind = 1 ∨ s.rampKind = 2 := by
  have hkind : s.rampKind = (s.cue.rampType.extractLsb' 0 3).extractLsb' 0 2 :=
    (BitVec.extractLsb'_extractLsb'_of_le (by decide)).symm
  have hlegal : ∀ x ∈ [0b000#3, 0b001#3, 0b010#3, 0b110#3],
      x.extractLsb' 0 2 = 0 ∨ x.extractLsb' 0 2 = 1 ∨ x.extractLsb' 0 2 = 2 := by decide
  rw [hkind]
  exact hlegal _ h

theorem currentColor_of_inactive {s : State} (h : s.active = false) (time : Word32) (ch : BitVec 4) :
    s.currentColor time ch = Color.black := by
  simp [State.currentColor, h]

/-- Each ramp between black and black is black (R34, R180). -/
theorem currentColor_of_black {s : State} (hramp : s.RampLegal) (hstart : s.startColor = Color.black)
    (hend : s.endColor = Color.black) (time : Word32) (ch : BitVec 4) :
    s.currentColor time ch = Color.black := by
  cases ha : s.active
  case false => exact currentColor_of_inactive ha time ch
  case true =>
    rcases rampKind_of_legal hramp with hkind | hkind | hkind <;>
      simp [State.currentColor, ha, hkind, hstart, hend]

/-- Settles O55: the invariant keeps TYPE = 3 out, and every other ramp keeps black. -/
theorem blackCueIsBlackAtEveryTime : Obligations.BlackCueIsBlackAtEveryTime := by
  intro s ch time hs hm hstart hend hch
  obtain ⟨-, -, hramp, -⟩ := hs
  have hblack : Color.unpack ((0 : Word32).extractLsb' 0 24) = Color.black := by decide
  rw [exec_currentColor_of_run hm hch, currentColor_of_black hramp, black_word]
  · rw [State.startColor, hstart, hblack]
  · rw [State.endColor, hend, hblack]

/-! ### No active Cue -/

/-- With DUR = 1 every wrapped time is 0 and so is the progress (R172, R173). -/
theorem progress_of_dur_one {s : State} (h : s.dur = 1) (time ch : Nat) : s.progress time ch = 0 := by
  simp [State.progress, wrappedTime, progressFraction, rdiv, h, Nat.mod_one]

/-- The mixing factor of ramp ratio 0: the peak at progress 0, the falling edge after it (R177). -/
theorem mixingFactor_zero (p : Nat) :
    mixingFactor 0 p = if p = 0 then 255 else 255 - min 255 (256 * p / 255) := by
  simp [mixingFactor, ratioDivSat, maxRatio]

/-- Settles O56: the invariant puts the default Cue in the bank, with DUR = 1 and RR = 0. -/
theorem inactiveBlockEvaluatesTheDefaultCue : Obligations.InactiveBlockEvaluatesTheDefaultCue := by
  intro s ch time p hs hm ha hch
  obtain ⟨-, -, -, -, hdefault, -⟩ := hs
  have hcue := hdefault ha
  have hdur : s.dur = 1 := by rw [State.dur, hcue]; decide
  have hrr : s.rr = 0 := by rw [State.rr, hcue]; decide
  have hp : p.toNat = 0 ↔ p = 0 := BitVec.toNat_inj (y := 0#8)
  refine ⟨?_, ?_, ?_⟩
  · rw [exec_progress_of_run hm hch, progress_of_dur_one hdur, byteWord_eq (by decide)]
    rfl
  · rw [exec_currentColor_of_run hm hch, currentColor_of_inactive ha, black_word]
  · rw [exec_mixFactor_of_run hm, hrr, mixingFactor_zero, byteWord_eq (by split <;> omega)]
    simp only [hp]

end Sys2Proof.Machine
end

section
/-! PROOFS. What a command's effect may depend on (10_state.md R38, R25): two blocks that agree on the mode
and the registers, but for CHAN_MASK where the command does not read it, take a command to the same
effect, whatever stands on their ports. -/

namespace Sys2Proof.Machine

/-! ### Effects -/

/-- The four ways a command can end (`exec_cases`), as functions of the state it is taken in. -/
inductive Effect
  | ok (data : Word32)
  | write (r : RegName) (v : Word32)
  | raise (c : Cause)
  | answerFaulted

/-- The state after an effect. -/
def Effect.apply (s : State) : Effect → State
  | .ok data => s.ok data
  | .write r v => (s.writeReg r v).ok 0
  | .raise c => s.raise c
  | .answerFaulted => s.answerFaulted

/-- The response an effect gives. -/
def Effect.response (s : State) : Effect → Response
  | .ok data => ⟨.ok, data⟩
  | .write _ _ => ⟨.ok, 0⟩
  | .raise c => ⟨.fault, c.code.setWidth 32⟩
  | .answerFaulted => ⟨.faulted, s.statusCause.setWidth 32⟩

@[simp] theorem Effect.apply_responses (s : State) (e : Effect) :
    (e.apply s).responses = s.responses ++ [e.response s] := by
  cases e <;> simp [Effect.apply, Effect.response]

@[simp] theorem Effect.apply_pending (s : State) (e : Effect) : (e.apply s).pending = s.pending := by
  cases e <;> simp [Effect.apply]

/-- The block is its mode and the ten stored words (R20). -/
theorem sameBlock_iff (s t : State) :
    SameBlock s t ↔ s.mode = t.mode ∧ ∀ r, s.stored r = t.stored r := by
  constructor
  · rintro ⟨hmode, hctrl, hstatus, hcue⟩
    refine ⟨hmode, fun r => ?_⟩
    cases r
    case ctrl => exact hctrl
    case status => exact hstatus
    all_goals simp only [State.stored, hcue]
  · rintro ⟨hmode, h⟩
    refine ⟨hmode, h .ctrl, h .status, ?_⟩
    exact Cue.mk.injEq .. ▸ ⟨h .chanMask, h .reverse, h .timeDivisor, h .durationMs, h .rampType,
      h .rampRatio, h .startColor, h .endColor⟩

section
variable {s t : State}

theorem Effect.apply_mode (e : Effect) (h : s.mode = t.mode) : (e.apply s).mode = (e.apply t).mode := by
  cases e <;> simp [Effect.apply, h]

/-- The response of an effect depends on STATUS only, which holds the first cause (R225). -/
theorem Effect.apply_responses_of_status (e : Effect) (h : s.status = t.status) :
    (e.apply t).responses = t.responses ++ [e.response s] := by
  have hresponse : e.response s = e.response t := by
    cases e <;> simp [Effect.response, State.statusCause, h]
  rw [Effect.apply_responses, hresponse]

/-- A register write makes no difference where there was none. -/
theorem writeReg_stored (r : RegName) (v : Word32) {q : RegName} (h : s.stored q = t.stored q) :
    (s.writeReg r v).stored q = (t.writeReg r v).stored q := by
  by_cases hr : r = .ctrl
  · subst hr
    unfold State.writeReg
    rw [if_pos rfl, if_pos rfl]
    split
    · cases q
      case ctrl => rfl
      all_goals exact h
    · cases q
      case status => exact h
      all_goals rfl
  · rw [writeReg_of_ne_ctrl s v hr, writeReg_of_ne_ctrl t v hr]
    by_cases hq : q = r
    · rw [hq, stored_setReg_same, stored_setReg_same]
    · rw [stored_setReg_other s v hq, stored_setReg_other t v hq, h]

/-- An effect makes no difference in a register where there was none. -/
theorem Effect.apply_stored (e : Effect) {q : RegName} (h : s.stored q = t.stored q) :
    (e.apply s).stored q = (e.apply t).stored q := by
  cases e with
  | ok d => exact h
  | write r v => exact writeReg_stored r v h
  | raise c =>
    cases q
    case status => rfl
    all_goals exact h
  | answerFaulted => exact h

theorem Effect.apply_sameBlock (e : Effect) (h : SameBlock s t) :
    SameBlock (e.apply s) (e.apply t) := by
  obtain ⟨hmode, hstored⟩ := (sameBlock_iff s t).1 h
  exact (sameBlock_iff _ _).2 ⟨e.apply_mode hmode, fun r => e.apply_stored (hstored r)⟩

end

/-! ### Commands -/

/-- One effect leads to `b` from `s` and to `b'` from `t`. -/
def SameEffect (s t b b' : State) : Prop := ∃ e : Effect, b = e.apply s ∧ b' = e.apply t

section
variable {s t b b' : State}

/-- The mode check of two blocks in one mode passes both to their bodies, or answers both FAULTED. -/
theorem inRun_sameEffect (hm : s.mode = t.mode) (h : SameEffect s t b b') :
    ∃ e : Effect, s.inRun b = .next (e.apply s) ∧ t.inRun b' = .next (e.apply t) := by
  obtain ⟨e, rfl, rfl⟩ := h
  cases ht : t.mode with
  | run => exact ⟨e, inRun_of_run (hm.trans ht) _, inRun_of_run ht _⟩
  | faulted => exact ⟨.answerFaulted, inRun_of_faulted (hm.trans ht) _, inRun_of_faulted ht _⟩

/-- A command with one check answers or faults in both. -/
theorem ite_sameEffect (c : Prop) [Decidable c] (d : Word32) (cause : Cause) :
    SameEffect s t (if c then s.ok d else s.raise cause) (if c then t.ok d else t.raise cause) := by
  by_cases h : c
  · exact ⟨.ok d, if_pos h, if_pos h⟩
  · exact ⟨.raise cause, if_neg h, if_neg h⟩

end

/-- `s` with another channel mask and other lists on the port. -/
def State.withMaskAndPort (s : State) (m : Word32) (pending : List HostAction)
    (responses : List Response) : State :=
  { s with cue := { s.cue with chanMask := m }, pending := pending, responses := responses }

section
variable (s : State) (m : Word32) (p : List HostAction) (q : List Response)

theorem execRegWrite_withMaskAndPort (idx : BitVec 4) (v : Word32) :
    ∃ e : Effect, execRegWrite idx v s = .next (e.apply s) ∧
      execRegWrite idx v (s.withMaskAndPort m p q) = .next (e.apply (s.withMaskAndPort m p q)) := by
  refine inRun_sameEffect rfl ?_
  cases hr : RegName.ofIndex idx with
  | none => exact ⟨.raise .badRegister, rfl, rfl⟩
  | some r =>
    have hf : (s.withMaskAndPort m p q).writeFault r v = s.writeFault r v := rfl
    simp only [hf]
    cases s.writeFault r v with
    | none => exact ⟨.write r v, rfl, rfl⟩
    | some c => exact ⟨.raise c, rfl, rfl⟩

theorem execRegRead_withMaskAndPort {idx : BitVec 4} (h : idx = 0x2 → s.cue.chanMask = m) :
    ∃ e : Effect, execRegRead idx s = .next (e.apply s) ∧
      execRegRead idx (s.withMaskAndPort m p q) = .next (e.apply (s.withMaskAndPort m p q)) := by
  unfold execRegRead
  cases hr : RegName.ofIndex idx with
  | none => exact inRun_sameEffect rfl ⟨.raise .badRegister, rfl, rfl⟩
  | some r =>
    have hread : (s.withMaskAndPort m p q).readReg r = s.readReg r := by
      cases r
      case chanMask =>
        exact congrArg (· &&& RegName.chanMask.fieldMask) (h (index_of_ofIndex hr).symm).symm
      all_goals rfl
    exact ⟨.ok (s.readReg r), rfl, by simp only [hread]; rfl⟩

/-- Nothing that an evaluation or a write's checks read is the channel mask or the port: only a REG_READ
of CHAN_MASK can tell the two states apart. -/
theorem exec_effect_withMaskAndPort (i : Instr) (h : i = .regRead 0x2 → s.cue.chanMask = m) :
    ∃ e : Effect, exec i s = .next (e.apply s) ∧
      exec i (s.withMaskAndPort m p q) = .next (e.apply (s.withMaskAndPort m p q)) := by
  cases i
  case regWrite idx v => exact execRegWrite_withMaskAndPort s m p q idx v
  case regRead idx => exact execRegRead_withMaskAndPort s m p q fun hidx => h (hidx ▸ rfl)
  case fromHsl hue sat light => exact inRun_sameEffect rfl (ite_sameEffect _ _ _)
  case progress ch time => exact inRun_sameEffect rfl (ite_sameEffect _ _ _)
  case currentColor ch time => exact inRun_sameEffect rfl (ite_sameEffect _ _ _)
  all_goals exact inRun_sameEffect rfl ⟨.ok _, rfl, rfl⟩

end

/-- Settles O57: the effect is the same, and an effect makes no difference outside CHAN_MASK. -/
theorem channelMaskIsReadByNoCommand : Obligations.ChannelMaskIsReadByNoCommand := by
  intro i s t m hi he
  obtain ⟨e, hs, hu⟩ := exec_effect_withMaskAndPort s m s.pending s.responses i (absurd · hi)
  cases hs.symm.trans he
  refine ⟨_, hu, ?_, e.apply_mode rfl, fun r hr => e.apply_stored ?_⟩
  · rw [e.apply_responses_of_status (s := s) rfl, Effect.apply_responses]
    rfl
  · cases r
    case chanMask => exact absurd rfl hr
    all_goals rfl

/-! ### Steps -/

/-- Blocks that agree differ in their ports only. -/
theorem eq_withMaskAndPort_of_sameBlock {s t : State} (h : SameBlock s t) :
    t = s.withMaskAndPort s.cue.chanMask t.pending t.responses := by
  obtain ⟨mode, ctrl, status, cue, _, _⟩ := s
  obtain ⟨_, _, _, _, _, _⟩ := t
  obtain ⟨rfl, rfl, rfl, rfl⟩ := h
  rfl

/-- Two blocks that agree take a command to the same effect (R38). -/
theorem exec_effect_of_sameBlock (i : Instr) {s t : State} (h : SameBlock s t) :
    ∃ e : Effect, exec i s = .next (e.apply s) ∧ exec i t = .next (e.apply t) := by
  rw [eq_withMaskAndPort_of_sameBlock h]
  exact exec_effect_withMaskAndPort s _ _ _ i fun _ => rfl

/-- Two blocks that agree take a word to the same effect, whether it decodes or not (R38, R87). -/
theorem step_effect_of_sameBlock {s₁ s₂ : State} {w : Word64} {rest₁ rest₂ : List HostAction}
    (h : SameBlock s₁ s₂) (hp₁ : s₁.pending = .command w :: rest₁)
    (hp₂ : s₂.pending = .command w :: rest₂) :
    ∃ e : Effect, step s₁ = .next (e.apply { s₁ with pending := rest₁ }) ∧
      step s₂ = .next (e.apply { s₂ with pending := rest₂ }) := by
  have htaken : SameBlock { s₁ with pending := rest₁ } { s₂ with pending := rest₂ } := h
  obtain ⟨hmode, -⟩ := h
  rcases step_command_cases hp₁ with ⟨i, hd, hstep₁⟩ | ⟨e, hd, hstep₁⟩ <;>
    rcases step_command_cases hp₂ with ⟨i', hd', hstep₂⟩ | ⟨e', hd', hstep₂⟩ <;>
    cases hd.symm.trans hd' <;> rw [hstep₁, hstep₂]
  · exact exec_effect_of_sameBlock i htaken
  · exact inRun_sameEffect hmode ⟨.raise (decodeCause e), rfl, rfl⟩

/-- Settles O12: the effect is the same, and its response reads STATUS only. -/
theorem responseDependsOnModeAndRegistersOnly : Obligations.ResponseDependsOnModeAndRegistersOnly := by
  intro s₁ s₂ w rest₁ rest₂ h hp₁ hp₂
  obtain ⟨e, hstep₁, hstep₂⟩ := step_effect_of_sameBlock h hp₁ hp₂
  obtain ⟨hmode, hctrl, hstatus, hcue⟩ := h
  refine ⟨_, _, e.response { s₁ with pending := rest₁ }, hstep₁, hstep₂,
    e.apply_sameBlock ⟨hmode, hctrl, hstatus, hcue⟩, Effect.apply_responses _ e,
    e.apply_responses_of_status hstatus⟩

end Sys2Proof.Machine
end

section
/-! PROOFS. Runs of command streams (70_reset_and_hazards.md R258), and the merge of two contexts'
streams (20_memory.md R66, R67): a stream is taken word by word, and harmless words leave the block to the
other stream as it was. -/

namespace Sys2Proof.Machine

theorem SameBlock.trans {s t u : State} (h : SameBlock s t) (h' : SameBlock t u) : SameBlock s u := by
  obtain ⟨hmode, hctrl, hstatus, hcue⟩ := h
  obtain ⟨hmode', hctrl', hstatus', hcue'⟩ := h'
  exact ⟨hmode.trans hmode', hctrl.trans hctrl', hstatus.trans hstatus', hcue.trans hcue'⟩

theorem SameBlock.symm {s t : State} (h : SameBlock s t) : SameBlock t s := by
  obtain ⟨hmode, hctrl, hstatus, hcue⟩ := h
  exact ⟨hmode.symm, hctrl.symm, hstatus.symm, hcue.symm⟩

/-! ### Taking one word of a stream -/

theorem Effect.apply_withCommands (e : Effect) (s : State) (vs ws : List Word64) :
    e.apply (s.withCommands ws) = (e.apply (s.withCommands vs)).withCommands ws := by
  cases e with
  | write r v =>
    cases r
    case ctrl =>
      simp only [Effect.apply, State.writeReg, if_true]
      split <;> rfl
    all_goals rfl
  | _ => rfl

/-- What stands behind a word on the port makes no difference to how it is taken (R38, R66). -/
theorem step_withCommands_cons {s t : State} {w : Word64} (h : step (s.withCommands [w]) = .next t)
    (ws : List Word64) : step (s.withCommands (w :: ws)) = .next (t.withCommands ws) := by
  obtain ⟨e, hone, hmany⟩ := step_effect_of_sameBlock (s₁ := s.withCommands [w])
    (s₂ := s.withCommands (w :: ws)) ⟨rfl, rfl, rfl, rfl⟩ rfl rfl
  cases hone.symm.trans h
  exact hmany.trans (congrArg _ (e.apply_withCommands s [] ws))

/-- Two blocks that agree answer a word alike and agree again (R38). -/
theorem step_withCommands_of_sameBlock {s s' : State} (h : SameBlock s s') (w : Word64) :
    ∃ t t' r, step (s.withCommands [w]) = .next t ∧ step (s'.withCommands [w]) = .next t' ∧
      SameBlock t t' ∧ t.responses = s.responses ++ [r] ∧ t'.responses = s'.responses ++ [r] :=
  responseDependsOnModeAndRegistersOnly (s.withCommands [w]) (s'.withCommands [w]) w [] [] h rfl rfl

/-- A run over a stream takes its first word and goes on with the rest (R258). -/
theorem runSteps_withCommands_cons {s t : State} {w : Word64}
    (h : step (s.withCommands [w]) = .next t) (k : Nat) (ws : List Word64) :
    runSteps (k + 1) (s.withCommands (w :: ws)) = runSteps k (t.withCommands ws) :=
  runSteps_succ_of_step k (step_withCommands_cons h ws)

/-! ### A run from reset -/

/-- A run over a stream answers every word and keeps the invariant. -/
theorem runSteps_withCommands_inv (ws : List Word64) {s : State} (hs : s.Inv) :
    ∃ t, runSteps ws.length (s.withCommands ws) = .next t ∧ t.pending = [] ∧
      t.responses.length = s.responses.length + ws.length ∧ t.Inv := by
  induction ws generalizing s with
  | nil => exact ⟨_, rfl, rfl, rfl, inv_of_sameBlock ⟨rfl, rfl, rfl, rfl⟩ hs⟩
  | cons w ws ih =>
    obtain ⟨t, -, r, hstep, -, -, hresponses, -⟩ :=
      step_withCommands_of_sameBlock (s := s) (s' := s) ⟨rfl, rfl, rfl, rfl⟩ w
    have ht : t.Inv := everyStepKeepsTheRegisterInvariant (s.withCommands [w]) t
      (inv_of_sameBlock ⟨rfl, rfl, rfl, rfl⟩ hs) hstep
    obtain ⟨u, hrun, hpending, hlength, hu⟩ := ih ht
    refine ⟨u, (runSteps_withCommands_cons hstep _ ws).trans hrun, hpending, ?_, hu⟩
    rw [hlength, hresponses, List.length_append, List.length_singleton, List.length_cons]
    omega

/-- Settles O58: reset meets the invariant and has given no response. -/
theorem runAnswersEveryCommand : Obligations.RunAnswersEveryCommand := by
  intro ws
  obtain ⟨t, hrun, hpending, hlength, ht⟩ :=
    runSteps_withCommands_inv ws resetStateMeetsTheRegisterInvariant
  exact ⟨t, hrun, hpending, hlength.trans (Nat.zero_add _), ht⟩

/-! ### Harmless commands -/

/-- In RUN mode a harmless command is answered OK (R38, R221). -/
theorem exec_ok_of_harmless {i : Instr} {s : State} (hi : isHarmless i = true) (hm : s.mode = .run) :
    ∃ d, exec i s = .next (s.ok d) := by
  cases i
  case regWrite idx v => simp [isHarmless] at hi
  case regRead idx =>
    have hidx : idx.toNat ≤ 9 := of_decide_eq_true hi
    cases hr : RegName.ofIndex idx with
    | none => exact absurd ((ofIndex_eq_none_iff idx).1 hr) (by omega)
    | some r => exact ⟨_, exec_regRead_of_ofIndex s hr⟩
  case fromHsl hue sat light => exact ⟨_, (inRun_of_run hm _).trans (congrArg _ (if_pos hi))⟩
  case progress ch time => exact ⟨_, (inRun_of_run hm _).trans (congrArg _ (if_pos hi))⟩
  case currentColor ch time => exact ⟨_, (inRun_of_run hm _).trans (congrArg _ (if_pos hi))⟩
  all_goals exact ⟨_, inRun_of_run hm _⟩

/-- A harmless command leaves the block as it was, in either mode. -/
theorem exec_sameBlock_of_harmless {i : Instr} {s t : State} (hi : isHarmless i = true)
    (he : exec i s = .next t) : SameBlock s t := by
  rcases exec_cases i s with ⟨d, h⟩ | ⟨_, _, _, rfl, -⟩ | ⟨c, hm, -⟩ | ⟨-, h⟩
  case inl | inr.inr.inr => cases h.symm.trans he; exact ⟨rfl, rfl, rfl, rfl⟩
  case inr.inl => simp [isHarmless] at hi
  case inr.inr.inl =>
    obtain ⟨d, h⟩ := exec_ok_of_harmless hi hm
    cases h.symm.trans he
    exact ⟨rfl, rfl, rfl, rfl⟩

theorem step_sameBlock_of_harmless {s t : State} {w : Word64} {i : Instr} (hd : decode w = .ok i)
    (hi : isHarmless i = true) (h : step (s.withCommands [w]) = .next t) : SameBlock s t := by
  rcases step_command_cases (s := s.withCommands [w]) rfl with ⟨j, hj, hstep⟩ | ⟨e, he, -⟩
  · cases hd.symm.trans hj
    exact exec_sameBlock_of_harmless (s := s.withCommands []) hi (hstep.symm.trans h)
  · cases hd.symm.trans he

/-! ### Merged streams -/

/-- The response `rz` has at each place of the merged stream `zs` is the one the word there gets right
after those words of `xs` that the order puts before it, run from `s` (R67). -/
def AnsweredInPlace (s : State) (order : List Bool) (xs zs : List Word64) (rz : List Response) : Prop :=
  ∀ (k : Nat) (w : Word64), zs[k]? = some w →
    ∃ m v r, rz[k]? = some r ∧
      runSteps ((order.take k).count true)
        (s.withCommands (xs.take ((order.take k).count true))) = .next m ∧
      step (m.withCommands [w]) = .next v ∧ v.responses = m.responses ++ [r]

section
variable {s t : State} {order : List Bool} {xs zs : List Word64} {rz : List Response} {r : Response}

theorem answeredInPlace_left {x : Word64} (hstep : step (s.withCommands [x]) = .next t)
    (hr : t.responses = s.responses ++ [r]) (h : AnsweredInPlace t order xs zs rz) :
    AnsweredInPlace s (true :: order) (x :: xs) (x :: zs) (r :: rz) := by
  intro k w hw
  cases k with
  | zero =>
    obtain rfl : x = w := Option.some.inj hw
    exact ⟨s.withCommands [], t, r, rfl, rfl, hstep, hr⟩
  | succ k =>
    obtain ⟨m, v, r', hr', hrun, hv⟩ := h k w hw
    refine ⟨m, v, r', hr', ?_, hv⟩
    rw [List.take_succ_cons, List.count_cons_self, List.take_succ_cons,
      runSteps_withCommands_cons hstep, hrun]

theorem answeredInPlace_right {y : Word64} (hstep : step (s.withCommands [y]) = .next t)
    (hr : t.responses = s.responses ++ [r]) (h : AnsweredInPlace s order xs zs rz) :
    AnsweredInPlace s (false :: order) xs (y :: zs) (r :: rz) := by
  intro k w hw
  cases k with
  | zero =>
    obtain rfl : y = w := Option.some.inj hw
    exact ⟨s.withCommands [], t, r, rfl, rfl, hstep, hr⟩
  | succ k =>
    rw [List.take_succ_cons, List.count_cons_of_ne (by decide)]
    exact h k w hw

end

/-- The merged stream `zs` run from `s` ends as `xs` alone run from `s'`, and its responses are those of
`xs` merged with others to `ys`, each the one due in its place. -/
def RunsMerged (s s' : State) (order : List Bool) (xs ys zs : List Word64) : Prop :=
  ∃ t u rx ry rz,
    runSteps zs.length (s.withCommands zs) = .next t ∧
    runSteps xs.length (s'.withCommands xs) = .next u ∧
    t.pending = [] ∧ SameBlock t u ∧
    u.responses = s'.responses ++ rx ∧ t.responses = s.responses ++ rz ∧
    IsMerge order rx ry rz ∧ rx.length = xs.length ∧ ry.length = ys.length ∧
    AnsweredInPlace s' order xs zs rz

/-- Blocks that agree run a merged stream and the first stream alone to blocks that agree: a word of `xs`
is taken by both alike, and a harmless word leaves the merged block where it was. -/
theorem runsMerged_of_isMerge {order : List Bool} {xs ys zs : List Word64} (h : IsMerge order xs ys zs)
    (hys : ∀ w ∈ ys, ∃ i, decode w = .ok i ∧ isHarmless i = true) {s s' : State}
    (hblock : SameBlock s s') : RunsMerged s s' order xs ys zs := by
  induction h generalizing s s' with
  | done =>
    exact ⟨s.withCommands [], s'.withCommands [], [], [], [], rfl, rfl, rfl, hblock,
      (List.append_nil _).symm, (List.append_nil _).symm, .done, rfl, rfl, nofun⟩
  | @left order xs ys zs x _ ih =>
    obtain ⟨t, t', r, hstep, hstep', hblock', hr, hr'⟩ := step_withCommands_of_sameBlock hblock x
    obtain ⟨u, u', rx, ry, rz, hrun, hrun', hpending, hend, hrx, hrz, hmerge, hlx, hly, hplace⟩ :=
      ih hys hblock'
    refine ⟨u, u', r :: rx, ry, r :: rz, (runSteps_withCommands_cons hstep _ zs).trans hrun,
      (runSteps_withCommands_cons hstep' _ xs).trans hrun', hpending, hend, ?_, ?_, .left r hmerge,
      congrArg (· + 1) hlx, hly, answeredInPlace_left hstep' hr' hplace⟩
    · rw [hrx, hr', List.append_assoc, List.singleton_append]
    · rw [hrz, hr, List.append_assoc, List.singleton_append]
  | @right order xs ys zs y _ ih =>
    obtain ⟨hy, hys⟩ := List.forall_mem_cons.1 hys
    obtain ⟨i, hd, hi⟩ := hy
    obtain ⟨t, t', r, hstep, hstep', -, hr, hr'⟩ := step_withCommands_of_sameBlock hblock y
    have hsame : SameBlock s t := step_sameBlock_of_harmless hd hi hstep
    obtain ⟨u, u', rx, ry, rz, hrun, hrun', hpending, hend, hrx, hrz, hmerge, hlx, hly, hplace⟩ :=
      ih hys (hsame.symm.trans hblock)
    refine ⟨u, u', rx, r :: ry, r :: rz, (runSteps_withCommands_cons hstep _ zs).trans hrun, hrun',
      hpending, hend, hrx, ?_, .right r hmerge, hlx, congrArg (· + 1) hly,
      answeredInPlace_right hstep' hr' hplace⟩
    rw [hrz, hr, List.append_assoc, List.singleton_append]

/-- Settles O59: both runs start from one block. -/
theorem harmlessContextsDoNotInterfere : Obligations.HarmlessContextsDoNotInterfere := by
  intro s order xs ys zs h hys
  exact runsMerged_of_isMerge h hys ⟨rfl, rfl, rfl, rfl⟩

end Sys2Proof.Machine
end

section
/-! PROOFS. What register accesses do and leave (20_memory.md R65, R66): a completed REG_WRITE stores its
word in its own register, leaves the others but for CTRL's reload of the default Cue, and passes its checks
again with nothing left to change. -/

namespace Sys2Proof.Machine

theorem index_injective : Function.Injective RegName.index := fun r q h =>
  Option.some.inj (by rw [← ofIndex_index r, h, ofIndex_index])

theorem exists_ofIndex_of_le {idx : BitVec 4} (h : idx.toNat ≤ 9) : ∃ r, RegName.ofIndex idx = some r :=
  Option.ne_none_iff_exists'.1 (mt (ofIndex_eq_none_iff idx).1 (by omega))

/-! ### The outcomes of a REG_WRITE -/

/-- A REG_WRITE completes, or raises a fault, or is answered FAULTED (R201, R225). -/
theorem exec_regWrite_cases (idx : BitVec 4) (v : Word32) (s : State) :
    (∃ r, idx = r.index ∧ s.mode = .run ∧ s.writeFault r v = none ∧
      exec (.regWrite idx v) s = .next ((s.writeReg r v).ok 0)) ∨
    (∃ c, s.mode = .run ∧ exec (.regWrite idx v) s = .next (s.raise c)) ∨
    (s.mode = .faulted ∧ exec (.regWrite idx v) s = .next s.answerFaulted) := by
  cases hm : s.mode
  case faulted => exact .inr (.inr ⟨rfl, inRun_of_faulted hm _⟩)
  case run =>
    cases hr : RegName.ofIndex idx with
    | none => exact .inr (.inl ⟨.badRegister, rfl, by simp [exec, execRegWrite, hr, hm]⟩)
    | some r =>
      obtain rfl := index_of_ofIndex hr
      cases hf : s.writeFault r v with
      | none => exact .inl ⟨r, rfl, rfl, hf, exec_regWrite_completes hm hf⟩
      | some c => exact .inr (.inl ⟨c, rfl, exec_regWrite_faults hm hf⟩)

/-- A REG_WRITE that starts and ends in RUN mode passed its checks and was done. -/
theorem regWrite_completed {s t : State} {idx : BitVec 4} {v : Word32} (hs : s.mode = .run)
    (he : exec (.regWrite idx v) s = .next t) (ht : t.mode = .run) :
    ∃ r, idx = r.index ∧ s.writeFault r v = none ∧ t = (s.writeReg r v).ok 0 := by
  rcases exec_regWrite_cases idx v s with ⟨r, hr, -, hf, h⟩ | ⟨c, -, h⟩ | ⟨hm, -⟩
  case inl => exact ⟨r, hr, hf, Host.Outcome.next.inj (he.symm.trans h)⟩
  case inr.inl =>
    cases h.symm.trans he
    exact absurd ht nofun
  case inr.inr => exact absurd (hs.symm.trans hm) nofun

/-- In FAULTED mode a REG_WRITE leaves the block as it is (R225). -/
theorem regWrite_sameBlock_of_faulted {s t : State} {idx : BitVec 4} {v : Word32}
    (hs : s.mode = .faulted) (he : exec (.regWrite idx v) s = .next t) : SameBlock s t := by
  cases (inRun_of_faulted hs _).symm.trans he
  exact ⟨rfl, rfl, rfl, rfl⟩

/-! ### The registers after a completed write -/

/-- A write of CTRL with ACTIVE = 1 replaces CTRL only (R23). -/
theorem writeReg_ctrl_of_set (s : State) {v : Word32} (h : v.getLsbD 0 = true) :
    s.writeReg .ctrl v = s.setReg .ctrl 1 := by
  simp only [State.writeReg, State.setReg, h, if_true]

/-- A write of CTRL with ACTIVE = 0 reloads the default Cue (R23, R34). -/
theorem writeReg_ctrl_of_clear (s : State) {v : Word32} (h : v.getLsbD 0 = false) :
    s.writeReg .ctrl v = { s with ctrl := 0, cue := Cue.default } := by
  simp only [State.writeReg, h, if_true, Bool.false_eq_true, if_false]

/-- A word that fits CTRL is its bit ACTIVE (R23). -/
theorem eq_of_fits_ctrl {v : Word32} (h : v &&& ~~~ RegName.ctrl.fieldMask = 0) :
    v = (BitVec.ofBool (v.getLsbD 0)).setWidth 32 :=
  ((and_not_eq_zero_iff v 1#32).1 h).symm.trans BitVec.and_one_eq_setWidth_ofBool_getLsbD

/-- A write that passes its checks stores its word: for CTRL, because 0 and 1 alone fit it (R64, R201). -/
theorem stored_writeReg_same {s : State} {r : RegName} {v : Word32} (hf : s.writeFault r v = none) :
    (s.writeReg r v).stored r = v := by
  obtain ⟨-, -, hmask, -⟩ := (writeFault_eq_none_iff s r v).1 hf
  by_cases hr : r = .ctrl
  · subst hr
    rcases writeReg_ctrl s v with ⟨hbit, h⟩ | ⟨hbit, h⟩ <;> rw [h, eq_of_fits_ctrl hmask, hbit] <;> rfl
  · rw [writeReg_of_ne_ctrl s v hr, stored_setReg_same]

/-- A write leaves every other register, unless it clears ACTIVE (R65). -/
theorem stored_writeReg_other (s : State) {r q : RegName} {v : Word32}
    (hkeep : r ≠ .ctrl ∨ v.getLsbD 0 = true) (hq : q ≠ r) :
    (s.writeReg r v).stored q = s.stored q := by
  by_cases hr : r = .ctrl
  · subst hr
    have hbit := hkeep.resolve_left (absurd rfl)
    rw [writeReg_ctrl_of_set s hbit]
    exact stored_setReg_other s 1 hq
  · rw [writeReg_of_ne_ctrl s v hr, stored_setReg_other s v hq]

/-! ### The same write again -/

@[simp] theorem setReg_setReg (s : State) (r : RegName) (v w : Word32) :
    (s.setReg r v).setReg r w = s.setReg r w := by
  cases r <;> rfl

/-- Writing a register twice is writing it once: the default Cue is loaded again to the same end. -/
@[simp] theorem writeReg_writeReg (s : State) (r : RegName) (v : Word32) :
    (s.writeReg r v).writeReg r v = s.writeReg r v := by
  by_cases hr : r = .ctrl
  · subst hr
    cases hbit : v.getLsbD 0
    · simp only [writeReg_ctrl_of_clear _ hbit]
    · simp only [writeReg_ctrl_of_set _ hbit, setReg_setReg]
  · simp only [writeReg_of_ne_ctrl _ _ hr, setReg_setReg]

/-- The answer to an earlier command makes no difference to a write. -/
theorem writeReg_ok (s : State) (d : Word32) (r : RegName) (v : Word32) :
    (s.ok d).writeReg r v = (s.writeReg r v).ok d := by
  by_cases hr : r = .ctrl
  · subst hr
    cases hbit : v.getLsbD 0
    · simp only [writeReg_ctrl_of_clear _ hbit]
      rfl
    · simp only [writeReg_ctrl_of_set _ hbit]
      rfl
  · simp only [writeReg_of_ne_ctrl _ _ hr]
    cases r <;> rfl

/-- A write that passed its checks passes them again: it has left ACTIVE as it was, or is a write of CTRL,
which needs no active Cue (R201). -/
theorem writeFault_after_writeReg {s : State} {r : RegName} {v : Word32}
    (hf : s.writeFault r v = none) (d : Word32) : ((s.writeReg r v).ok d).writeFault r v = none := by
  obtain ⟨hstatus, hctrl, hchecks⟩ := (writeFault_eq_none_iff s r v).1 hf
  refine (writeFault_eq_none_iff _ r v).2 ⟨hstatus, ?_, hchecks⟩
  by_cases hr : r = .ctrl
  · exact .inl hr
  · have hkept : (s.writeReg r v).ctrl = s.ctrl :=
      stored_writeReg_other s (q := .ctrl) (.inl hr) (Ne.symm hr)
    right
    rw [State.active, State.ok_ctrl, hkept]
    exact hctrl.resolve_left hr

/-- The same REG_WRITE again leaves the block: a completed one is done again to the same end, and after a
fault or in FAULTED mode the second is not done (R65). -/
theorem regWrite_twice_sameBlock {s t u : State} {idx : BitVec 4} {v : Word32}
    (ht : exec (.regWrite idx v) s = .next t) (hu : exec (.regWrite idx v) t = .next u) :
    SameBlock t u := by
  rcases exec_regWrite_cases idx v s with ⟨r, rfl, hm, hf, h⟩ | ⟨c, -, h⟩ | ⟨hm, h⟩ <;>
    cases h.symm.trans ht
  · cases (exec_regWrite_completes (by simpa using hm) (writeFault_after_writeReg hf 0)).symm.trans hu
    rw [writeReg_ok, writeReg_writeReg]
    exact ⟨rfl, rfl, rfl, rfl⟩
  · exact regWrite_sameBlock_of_faulted (State.raise_mode s c) hu
  · exact regWrite_sameBlock_of_faulted hm hu

/-- Settles O29: a read answers OK, a completed write is a `writeReg`, and index 0 is CTRL's alone. -/
theorem registerAccessesHaveTheirSideEffectsOnly :
    Obligations.RegisterAccessesHaveTheirSideEffectsOnly := by
  refine ⟨fun s idx hidx => ?_, fun s t idx v r hs he ht hkeep hne => ?_,
    fun s t v hs he ht hbit => ?_, fun s t u idx v ht hu => regWrite_twice_sameBlock ht hu⟩
  · obtain ⟨r, hr⟩ := exists_ofIndex_of_le hidx
    exact ⟨_, exec_regRead_of_ofIndex s hr, rfl, rfl, rfl, rfl⟩
  · obtain ⟨q, rfl, -, rfl⟩ := regWrite_completed hs he ht
    have hkeep' : q ≠ .ctrl ∨ v.getLsbD 0 = true := hkeep.imp_left (mt (congrArg RegName.index))
    exact stored_writeReg_other s hkeep' (mt (congrArg RegName.index) hne)
  · obtain ⟨q, hq, hf, rfl⟩ := regWrite_completed hs he ht
    obtain rfl : RegName.ctrl = q := index_injective hq
    refine ⟨writeReg_status hf, ?_⟩
    rw [writeReg_ctrl_of_clear s hbit]
    rfl

/-- Settles O30: the write stored `v`, which fits the register's fields, so it reads as `v`. -/
theorem writtenValueIsReadByTheNextCommand : Obligations.WrittenValueIsReadByTheNextCommand := by
  intro s t idx v hs he ht
  obtain ⟨r, rfl, hf, rfl⟩ := regWrite_completed hs he ht
  obtain ⟨-, -, hmask, -⟩ := (writeFault_eq_none_iff s r v).1 hf
  have hread : ((s.writeReg r v).ok 0).readReg r = v :=
    calc ((s.writeReg r v).ok 0).readReg r
        = (s.writeReg r v).stored r &&& r.fieldMask := by cases r <;> rfl
      _ = v &&& r.fieldMask := by rw [stored_writeReg_same hf]
      _ = v := (and_not_eq_zero_iff v r.fieldMask).1 hmask
  rw [exec_regRead_of_ofIndex _ (ofIndex_index r), hread]

end Sys2Proof.Machine
end

section
/-! PROOFS. The encoding (30_encoding.md R82, R85 to R87): what a word's fields hold after `putField`, what
the opcode of a word decides, and the round trips between words and commands. -/

namespace Sys2Proof

/-! ### Fields of a word (R6) -/

theorem getElem_putField {width n k : Nat} (v : BitVec n) (lsb : Nat) (hk : k < width) :
    (putField width v lsb)[k] = (decide (lsb ≤ k) && v.getLsbD (k - lsb)) := by
  by_cases hl : lsb ≤ k <;> simp [putField, BitVec.getElem_shiftLeft, hl]

/-- A field is read back from where it was put. -/
theorem extractLsb'_putField_same {width n lsb : Nat} (v : BitVec n) (h : lsb + n ≤ width) :
    (putField width v lsb).extractLsb' lsb n = v := by
  ext k hk
  have hw : lsb + k < width := by omega
  simp [getElem_putField, hk, hw]

/-- A field leaves the bits below it and the bits above it 0. -/
theorem extractLsb'_putField_disjoint {width n lsb start len : Nat} (v : BitVec n)
    (h : start + len ≤ lsb ∨ lsb + n ≤ start) :
    (putField width v lsb).extractLsb' start len = 0 := by
  ext k hk
  rw [BitVec.getElem_extractLsb']
  by_cases hw : start + k < width
  · rcases h with hbelow | habove
    · simp [getElem_putField, hw, show ¬ lsb ≤ start + k by omega]
    · simp [getElem_putField, hw, BitVec.getLsbD_of_ge v _ (show n ≤ start + k - lsb by omega)]
  · simp [BitVec.getLsbD_of_ge _ _ (Nat.le_of_not_lt hw)]

/-- A field read from a word and put back where it stood is the word's bits there. -/
theorem putField_extractLsb' {width : Nat} (w : BitVec width) (lsb n : Nat) :
    putField width (w.extractLsb' lsb n) lsb = w &&& putField width (BitVec.allOnes n) lsb := by
  ext k hk
  by_cases hl : lsb ≤ k
  · simp [getElem_putField, hk, hl, Bool.and_comm]
  · simp [getElem_putField, hl]

/-! ### The rows of the opcode table (R85) -/

theorem ofCode_eq_none_iff (op : BitVec 4) : Opcode.ofCode op = none ↔ 13 ≤ op.toNat := by
  revert op; decide

theorem code_injective : Function.Injective Opcode.code := fun o₁ o₂ h =>
  Option.some.inj ((Machine.ofCode_code o₁).symm.trans (h ▸ Machine.ofCode_code o₂))

theorem code_of_ofCode {op : BitVec 4} {o : Opcode} (h : Opcode.ofCode op = some o) : op = o.code := by
  revert op o; decide

/-- A word that matches a row has the row's opcode: every mask covers the opcode bits. -/
theorem opcode_of_matches {w : Word64} {o : Opcode} (h : w &&& o.mask = o.pattern) :
    w.extractLsb' 60 4 = o.code := by
  have hmask : o.mask.extractLsb' 60 4 = BitVec.allOnes 4 := by cases o <;> decide
  have hpattern : o.pattern.extractLsb' 60 4 = o.code := by cases o <;> decide
  calc w.extractLsb' 60 4
      = (w &&& o.mask).extractLsb' 60 4 := by rw [BitVec.extractLsb'_and, hmask, BitVec.and_allOnes]
    _ = o.code := by rw [h, hpattern]

/-- Settles O5: a word's opcode bits name the one row it can match. -/
theorem noWordMatchesTwoTableRows : Obligations.NoWordMatchesTwoTableRows :=
  fun _ _ _ h₁ h₂ => code_injective ((opcode_of_matches h₁).symm.trans (opcode_of_matches h₂))

/-! ### The decoder (R87) -/

theorem decode_of_illegal {w : Word64} (h : 13 ≤ (w.extractLsb' 60 4).toNat) :
    decode w = .error .illegalOpcode := by
  simp only [decode, (ofCode_eq_none_iff _).mpr h]

theorem decode_of_opcode {w : Word64} {o : Opcode} (h : w.extractLsb' 60 4 = o.code) :
    decode w = if w &&& o.mask = o.pattern then .ok (o.fields w) else .error .reservedBits := by
  simp only [decode, h, Machine.ofCode_code]

/-- The thirteen rows of R85, in the order of their opcodes. -/
def opcodeTable : List Opcode :=
  [.nop, .regWrite, .regRead, .fromHsl, .toHsl, .interp, .mixRgb, .mixHsl, .ratioSat, .ratioFix,
    .progress, .mixFactor, .currentColor]

/-- One row of R85 with the command that `w` gives under it. -/
def tableRow (w : Word64) (o : Opcode) : BitVec 4 × Word64 × Word64 × Instr :=
  (o.code, o.mask, o.pattern, o.fields w)

theorem decode_of_mem_table {w : Word64} {row : BitVec 4 × Word64 × Word64 × Instr}
    (hrow : row ∈ opcodeTable.map (tableRow w)) (hcode : w.extractLsb' 60 4 = row.1) :
    decode w = if w &&& row.2.1 = row.2.2.1 then .ok row.2.2.2 else .error .reservedBits := by
  obtain ⟨o, -, rfl⟩ := List.mem_map.mp hrow
  exact decode_of_opcode hcode

theorem decode_of_matches {w : Word64} {o : Opcode} (h : w &&& o.mask = o.pattern) :
    decode w = .ok (o.fields w) := by
  rw [decode_of_opcode (opcode_of_matches h), if_pos h]

/-- A word decodes to a command exactly when it matches a row whose fields make that command. -/
theorem decode_eq_ok_iff (w : Word64) (i : Instr) :
    decode w = .ok i ↔ ∃ o : Opcode, w &&& o.mask = o.pattern ∧ o.fields w = i := by
  constructor
  · intro h
    cases ho : Opcode.ofCode (w.extractLsb' 60 4) with
    | none => simp [decode, ho] at h
    | some o =>
      rw [decode_of_opcode (code_of_ofCode ho)] at h
      split at h
      case isTrue hm => exact ⟨o, hm, Except.ok.inj h⟩
      case isFalse => cases h
  · rintro ⟨o, hm, rfl⟩
    exact decode_of_matches hm

/-! ### Decoding an encoding -/

theorem encode_matches (i : Instr) : encode i &&& i.opcode.mask = i.opcode.pattern := by
  cases i
  case nop => exact Laws.MatchesRow.nop
  case regWrite idx data => exact Laws.MatchesRow.regWrite idx data
  case regRead idx => exact Laws.MatchesRow.regRead idx
  case fromHsl hue sat light => exact Laws.MatchesRow.fromHsl hue sat light
  case toHsl rgb => exact Laws.MatchesRow.toHsl rgb
  case interp start stop factor => exact Laws.MatchesRow.interp start stop factor
  case mixRgb a b factor => exact Laws.MatchesRow.mixRgb a b factor
  case mixHsl wrap a b factor => exact Laws.MatchesRow.mixHsl wrap a b factor
  case ratioSat x => exact Laws.MatchesRow.ratioSat x
  case ratioFix ratio => exact Laws.MatchesRow.ratioFix ratio
  case progress channel time => exact Laws.MatchesRow.progress channel time
  case mixFactor ratio => exact Laws.MatchesRow.mixFactor ratio
  case currentColor channel time => exact Laws.MatchesRow.currentColor channel time

/-- The fields of each format stand apart (R82), so each is read back from the encoding. -/
theorem fields_encode (i : Instr) : i.opcode.fields (encode i) = i := by
  cases i <;>
    simp (disch := omega) [Instr.opcode, Opcode.fields, encode, BitVec.extractLsb'_or,
      extractLsb'_putField_same, extractLsb'_putField_disjoint]

/-- An encoding matches the row of its opcode, and that row reads its operands back. -/
theorem decode_encode (i : Instr) : decode (encode i) = .ok i :=
  (decode_of_matches (encode_matches i)).trans (congrArg _ (fields_encode i))

/-- Settles O1, by the row of the command's opcode. -/
theorem decodeOfEncodeIsTheCommand : Obligations.DecodeOfEncodeIsTheCommand := decode_encode

/-- Settles O3: each word is the encoding of its command. -/
theorem specWordsDecodeToTheirCommands : Obligations.SpecWordsDecodeToTheirCommands :=
  ⟨decode_encode .nop, decode_encode (.regWrite 8 0x7F14FF), decode_encode (.regRead 2),
    decode_encode (.fromHsl 360 100 50), decode_encode (.toHsl 0x7F14FF),
    decode_encode (.interp 0 255 128), decode_encode (.mixRgb 0xFF6426 0x7F14FF 64),
    decode_encode (.mixHsl 1 0xFF0000 0x0000FF 128), decode_encode (.ratioSat 0x80000000),
    decode_encode (.ratioFix 128), decode_encode (.progress 11 777), decode_encode (.mixFactor 255),
    decode_encode (.currentColor 0 1199)⟩

/-! ### Encoding a decoded word -/

/-- The fields a row reads are all the bits outside its mask: put back, they make the word again, with
the row's pattern in the masked bits. -/
theorem encode_fields (o : Opcode) (w : Word64) :
    encode (o.fields w) = o.pattern ||| (w &&& ~~~ o.mask) := by
  cases o
  case nop => simp [Opcode.fields, encode, putField, Opcode.mask, Opcode.pattern]
  all_goals
    simp only [Opcode.fields, encode, putField_extractLsb', BitVec.or_assoc,
      ← BitVec.and_or_distrib_left]
    rfl

/-- Settles O2: the masked bits of a word that decodes are its row's pattern, the others its fields. -/
theorem encodeOfDecodedWordIsTheWord : Obligations.EncodeOfDecodedWordIsTheWord := by
  intro w i h
  obtain ⟨o, hm, rfl⟩ := (decode_eq_ok_iff w i).mp h
  calc encode (o.fields w)
      = o.pattern ||| (w &&& ~~~ o.mask) := encode_fields o w
    _ = w &&& (o.mask ||| ~~~ o.mask) := by rw [← hm, BitVec.and_or_distrib_left]
    _ = w := by rw [BitVec.or_not_self, BitVec.and_allOnes]

end Sys2Proof
end

section
/-! PROOFS. The assembler (30_encoding.md R82, R84, R89): what fits a field is the value of the field's
bits, a written command assembles to a word of the command it stands for, and each command can be
written. -/

namespace Sys2Proof

/-! ### Integers in fields (R84) -/

@[simp] theorem fitsUnsigned_iff (bits : Nat) (v : ℤ) :
    fitsUnsigned bits v = true ↔ 0 ≤ v ∧ v < 2 ^ bits := by
  simp [fitsUnsigned]

@[simp] theorem fitsSignedPattern_iff (v : ℤ) :
    fitsSignedPattern v = true ↔ -2147483648 ≤ v ∧ v < 4294967296 := by
  simp [fitsSignedPattern]

/-- A field holds the non-negative integer that fits it. -/
theorem toNat_ofInt_of_fits {n : Nat} {v : ℤ} (h : 0 ≤ v ∧ v < 2 ^ n) :
    ((BitVec.ofInt n v).toNat : ℤ) = v := by
  obtain ⟨hlow, hhigh⟩ := h
  rw [BitVec.toNat_ofInt, Int.toNat_of_nonneg (Int.emod_nonneg v (by positivity))]
  exact Int.emod_eq_of_lt hlow (by exact_mod_cast hhigh)

/-- The field of format X, read as signed, holds the signed integer it was written as. -/
theorem toInt_ofInt_of_signed {v : ℤ} (h : -2147483648 ≤ v ∧ v < 2147483648) :
    (BitVec.ofInt 32 v).toInt = v := by
  rw [BitVec.toInt_ofInt]
  exact Int.bmod_eq_of_le (by omega) (by omega)

/-! ### Written commands (R89) -/

/-- A written command assembles when its operands fit, and its word decodes to the command it stands
for. -/
theorem assemblesWhen_of_toInstr {a : Asm} {fits : Prop} {holds : Instr → Prop}
    (hfits : a.wellFormed = true ↔ fits) (hholds : fits → holds a.toInstr) :
    Machine.AssemblesWhen a fits holds :=
  ⟨fun h => ⟨encode a.toInstr, a.toInstr, if_pos (hfits.mpr h), decode_encode _, hholds h⟩,
    fun h => if_neg (mt hfits.mp h)⟩

/-- The command as it is written, each operand the number its field holds. -/
def Instr.written : Instr → Asm
  | .nop => .nop
  | .regWrite idx data => .regWrite idx.toNat data.toNat
  | .regRead idx => .regRead idx.toNat
  | .fromHsl hue sat light => .fromHsl hue.toNat sat.toNat light.toNat
  | .toHsl rgb => .toHsl rgb.toNat
  | .interp start stop factor => .interp start.toNat stop.toNat factor.toNat
  | .mixRgb a b factor => .mixRgb a.toNat b.toNat factor.toNat
  | .mixHsl wrap a b factor => .mixHsl (wrap.getLsbD 0) a.toNat b.toNat factor.toNat
  | .ratioSat x => .ratioSat x.toNat
  | .ratioFix ratio => .ratioFix ratio.toNat
  | .progress channel time => .progress time.toNat channel.toNat
  | .mixFactor ratio => .mixFactor ratio.toNat
  | .currentColor channel time => .currentColor time.toNat channel.toNat

theorem toNat_fits {n : Nat} (v : BitVec n) : (0 : ℤ) ≤ v.toNat ∧ (v.toNat : ℤ) < 2 ^ n :=
  ⟨Int.natCast_nonneg _, by exact_mod_cast v.isLt⟩

theorem wellFormed_written (i : Instr) : i.written.wellFormed = true := by
  cases i
  case ratioSat x =>
    exact (fitsSignedPattern_iff _).mpr ⟨by omega, (toNat_fits x).2⟩
  all_goals
    simp only [Instr.written, Asm.wellFormed, Bool.and_eq_true, fitsUnsigned_iff, toNat_fits,
      and_self]

theorem toInstr_written (i : Instr) : i.written.toInstr = i := by
  have hwrap : ∀ w : BitVec 1, BitVec.ofBool w[0] = w := by decide
  cases i <;> simp [Instr.written, Asm.toInstr, hwrap]

theorem assemble_written (i : Instr) : assemble i.written = some (encode i) := by
  rw [assemble, if_pos (wellFormed_written i), toInstr_written]

/-- Settles O6: for each command the assembler's check is the fit of every operand, and a field holds
what fits it; a command is assembled from its own operands' numbers. -/
theorem assemblerEncodesWhatFitsAndNothingElse :
    Obligations.AssemblerEncodesWhatFitsAndNothingElse := by
  refine ⟨?nop, ?regWrite, ?regRead, ?fromHsl, ?toHsl, ?interp, ?mixRgb, ?mixHsl, ?ratioSat,
    ?ratioFix, ?progress, ?mixFactor, ?currentColor, ?every⟩
  case nop => exact assemblesWhen_of_toInstr (by simp [Asm.wellFormed]) fun _ => rfl
  case regWrite =>
    intro reg data
    exact assemblesWhen_of_toInstr (by simp [Asm.wellFormed]) fun ⟨hreg, hdata⟩ =>
      ⟨_, _, rfl, toNat_ofInt_of_fits hreg, toNat_ofInt_of_fits hdata⟩
  case regRead =>
    intro reg
    exact assemblesWhen_of_toInstr (by simp [Asm.wellFormed]) fun hreg =>
      ⟨_, rfl, toNat_ofInt_of_fits hreg⟩
  case fromHsl =>
    intro hue sat light
    exact assemblesWhen_of_toInstr (by simp [Asm.wellFormed, and_assoc]) fun ⟨hhue, hsat, hlight⟩ =>
      ⟨_, _, _, rfl, toNat_ofInt_of_fits hhue, toNat_ofInt_of_fits hsat,
        toNat_ofInt_of_fits hlight⟩
  case toHsl =>
    intro rgb
    exact assemblesWhen_of_toInstr (by simp [Asm.wellFormed]) fun hrgb =>
      ⟨_, rfl, toNat_ofInt_of_fits hrgb⟩
  case interp =>
    intro start stop factor
    exact assemblesWhen_of_toInstr (by simp [Asm.wellFormed, and_assoc]) fun ⟨hstart, hstop, hfactor⟩ =>
      ⟨_, _, _, rfl, toNat_ofInt_of_fits hstart, toNat_ofInt_of_fits hstop,
        toNat_ofInt_of_fits hfactor⟩
  case mixRgb =>
    intro a b factor
    exact assemblesWhen_of_toInstr (by simp [Asm.wellFormed, and_assoc]) fun ⟨ha, hb, hfactor⟩ =>
      ⟨_, _, _, rfl, toNat_ofInt_of_fits ha, toNat_ofInt_of_fits hb, toNat_ofInt_of_fits hfactor⟩
  case mixHsl =>
    intro wrap a b factor
    exact assemblesWhen_of_toInstr (by simp [Asm.wellFormed, and_assoc]) fun ⟨ha, hb, hfactor⟩ =>
      ⟨_, _, _, _, rfl, by cases wrap <;> decide, toNat_ofInt_of_fits ha, toNat_ofInt_of_fits hb,
        toNat_ofInt_of_fits hfactor⟩
  case ratioSat =>
    intro x
    exact assemblesWhen_of_toInstr (by simp [Asm.wellFormed]) fun ⟨hlow, hhigh⟩ =>
      ⟨_, rfl, fun hx => toInt_ofInt_of_signed ⟨hlow, hx⟩,
        fun hx => toNat_ofInt_of_fits ⟨hx, hhigh⟩⟩
  case ratioFix =>
    intro ratio
    exact assemblesWhen_of_toInstr (by simp [Asm.wellFormed]) fun hratio =>
      ⟨_, rfl, toNat_ofInt_of_fits hratio⟩
  case progress =>
    intro time channel
    exact assemblesWhen_of_toInstr (by simp [Asm.wellFormed]) fun ⟨htime, hchannel⟩ =>
      ⟨_, _, rfl, toNat_ofInt_of_fits htime, toNat_ofInt_of_fits hchannel⟩
  case mixFactor =>
    intro ratio
    exact assemblesWhen_of_toInstr (by simp [Asm.wellFormed]) fun hratio =>
      ⟨_, rfl, toNat_ofInt_of_fits hratio⟩
  case currentColor =>
    intro time channel
    exact assemblesWhen_of_toInstr (by simp [Asm.wellFormed]) fun ⟨htime, hchannel⟩ =>
      ⟨_, _, rfl, toNat_ofInt_of_fits htime, toNat_ofInt_of_fits hchannel⟩
  case every => exact fun i => ⟨i.written, encode i, assemble_written i, decode_encode i⟩

end Sys2Proof
end

section
/-! PROOFS. How a step takes a command word (30_encoding.md R80, R83, R87): it runs the command the word
decodes to, or rejects the word with its cause, and answers once. -/

namespace Sys2Proof.Machine

/-- Settles O9. -/
theorem withoutACommandTheBlockHolds : Obligations.WithoutACommandTheBlockHolds := by
  intro s hp
  rcases step_cases s with ⟨-, h⟩ | ⟨_, h, -⟩ | ⟨_, _, _, h, -⟩ | ⟨_, _, _, h, -⟩
  case inl => exact h
  all_goals simp [hp] at h

/-- Settles O7: of the two ways to take a command word, only one is open to a word that decodes. -/
theorem stepRunsTheDecodedCommand : Obligations.StepRunsTheDecodedCommand := by
  intro s w rest i hp hd
  rcases step_command_cases hp with ⟨j, hj, hstep⟩ | ⟨e, he, -⟩
  · cases hd.symm.trans hj
    exact hstep
  · cases hd.symm.trans he

section
variable {s : State} {w : Word64} {rest : List HostAction} {e : DecodeError}

theorem step_of_decode_error (hp : s.pending = .command w :: rest) (hd : decode w = .error e) :
    step s = State.rejectWord { s with pending := rest } e := by
  rcases step_command_cases hp with ⟨j, hj, -⟩ | ⟨e', he, hstep⟩
  · cases hd.symm.trans hj
  · cases hd.symm.trans he
    exact hstep

/-- In RUN mode a word that does not decode is a fault with its cause's code (R86, R220, R223). -/
theorem step_of_decode_error_of_run (hm : s.mode = .run) (hp : s.pending = .command w :: rest)
    (hd : decode w = .error e) :
    step s = .next (State.faultedWith { s with pending := rest } (decodeCause e).code.toNat) := by
  rw [step_of_decode_error hp hd, rejectWord_of_run (s := { s with pending := rest }) hm,
    raise_eq_faultedWith]

/-- In FAULTED mode a word that does not decode raises no new fault (R87, R225). -/
theorem step_of_decode_error_of_faulted (hm : s.mode = .faulted)
    (hp : s.pending = .command w :: rest) (hd : decode w = .error e) :
    step s = .next (State.answeredFaulted { s with pending := rest }) :=
  (step_of_decode_error hp hd).trans (inRun_of_faulted (s := { s with pending := rest }) hm _)

end

/-- Settles O8: the opcode is checked first, then the masked bits, and each failure has its cause. -/
theorem undecodableWordFaultsWithItsCause : Obligations.UndecodableWordFaultsWithItsCause := by
  intro s w rest hm hp
  refine ⟨fun hop => step_of_decode_error_of_run hm hp (decode_of_illegal hop), ?_⟩
  intro o hcode hbits
  have hd : decode w = .error .reservedBits := by rw [decode_of_opcode hcode, if_neg hbits]
  exact step_of_decode_error_of_run hm hp hd

/-- Settles O4: the rows written out are those of `Opcode`, and a word that fails is rejected with its
cause. -/
theorem decodeChecksOpcodeThenReservedBits : Obligations.DecodeChecksOpcodeThenReservedBits := by
  refine ⟨fun w => ⟨decode_of_illegal, fun row hrow => decode_of_mem_table hrow⟩, ?_⟩
  intro s w rest e hp hd
  have hcode : (decodeCause e).code.toNat = if e = .illegalOpcode then 1 else 2 := by
    cases e <;> decide
  exact ⟨fun hm => hcode ▸ step_of_decode_error_of_run hm hp hd,
    fun hm => step_of_decode_error_of_faulted hm hp hd⟩

/-- Settles O11: taking a word is one effect on the state with the word off the port, and every effect
is one response. -/
theorem everyCommandIsAnsweredOnce : Obligations.EveryCommandIsAnsweredOnce := by
  intro s w rest hp
  obtain ⟨e, hstep, -⟩ := step_effect_of_sameBlock (s₁ := s) (s₂ := s) ⟨rfl, rfl, rfl, rfl⟩ hp hp
  exact ⟨_, e.response _, hstep, e.apply_pending _, e.apply_responses _⟩

end Sys2Proof.Machine
end

section
/-! PROOFS. The 8-bit interpolator (41_color.md R111 to R113) and the RGB mixer's three lanes of it (R119,
R120). -/

namespace Sys2Proof.Machine

/-! ### The interpolator -/

/-- The rising branch of R111, which also gives the end points' common value where they agree. -/
theorem interp8_of_le {s e : Nat} (h : s ≤ e) (f : Nat) :
    interp8 s e f = s + (e - s) * f / 255 := by
  obtain rfl | hlt := h.eq_or_lt
  · simp
  · simp [interp8, absDiff, hlt, h]

/-- The falling branch of R111. -/
theorem interp8_of_ge {s e : Nat} (h : e ≤ s) (f : Nat) :
    interp8 s e f = s - (s - e) * f / 255 := by
  simp [interp8, absDiff, h]

/-- An interpolated value does not fall below the smaller end point (R111). -/
theorem min_le_interp8 {s e f : Nat} (hf : f ≤ 255) : min s e ≤ interp8 s e f := by
  rcases le_total s e with h | h
  · rw [interp8_of_le h]
    omega
  · have hscaled := scaled_le (d := s - e) hf
    rw [interp8_of_ge h]
    omega

/-- A bound of both end points bounds the interpolated value. -/
theorem interp8_le {s e f k : Nat} (hs : s ≤ k) (he : e ≤ k) (hf : f ≤ 255) : interp8 s e f ≤ k :=
  (interp8_le_max hf).trans (max_le hs he)

@[simp] theorem interp8_factor_zero (s e : Nat) : interp8 s e 0 = s := by
  simp [interp8]

@[simp] theorem interp8_factor_full (s e : Nat) : interp8 s e 255 = e := by
  rcases le_total s e with h | h
  · rw [interp8_of_le h, Nat.mul_div_cancel _ (by decide)]
    omega
  · rw [interp8_of_ge h, Nat.mul_div_cancel _ (by decide)]
    omega

/-- The scaled difference grows with the factor (R113 (b)). -/
theorem scaled_mono (d : Nat) {f g : Nat} (h : f ≤ g) : d * f / 255 ≤ d * g / 255 :=
  Nat.div_le_div_right (Nat.mul_le_mul_left d h)

/-- Settles O32. -/
theorem interpolatorFollowsTheSourceAlgorithm : Obligations.InterpolatorFollowsTheSourceAlgorithm := by
  intro s e f hs he hf
  have hproduct : ∀ d ≤ 255, d * f ≤ 65025 := fun d hd => Nat.mul_le_mul hd hf
  exact ⟨fun h => interp8_of_le h.le f, fun h => interp8_of_ge h f, hproduct _ (by omega),
    hproduct _ (by omega), interp8_le hs he hf, min_le_interp8 hf, interp8_le_max hf⟩

/-- Settles O33: both branches move from the start by a scaled difference that grows with the factor. -/
theorem interpolatorEndpointsAndMonotonicity : Obligations.InterpolatorEndpointsAndMonotonicity := by
  refine ⟨fun s e _ _ => ⟨interp8_factor_zero s e, interp8_factor_full s e⟩, ?_, by decide, by decide⟩
  intro s e f g _ _ hfg _
  constructor
  · intro h
    rw [interp8_of_le h, interp8_of_le h]
    exact Nat.add_le_add_left (scaled_mono _ hfg) s
  · intro h
    rw [interp8_of_ge h.le, interp8_of_ge h.le]
    exact Nat.sub_le_sub_left (scaled_mono _ hfg) s

/-! ### INTERP and MIX_RGB -/

/-- Bytes interpolated by a byte are bytes (R111). -/
theorem interp8_byte_lt (s e f : BitVec 8) : interp8 s.toNat e.toNat f.toNat < 256 :=
  Nat.lt_succ_of_le (interp8_le (by omega) (by omega) (by omega))

theorem exec_interp_of_run {st : State} (hm : st.mode = .run) (s e f : BitVec 8) :
    exec (.interp s e f) st =
      .next (st.answeredOk (BitVec.ofNat 32 (interp8 s.toNat e.toNat f.toNat))) := by
  rw [← byteWord_eq (interp8_byte_lt s e f)]
  exact inRun_of_run hm _

/-- Settles O34. -/
theorem interpCommandAnswersTheInterpolation : Obligations.InterpCommandAnswersTheInterpolation := by
  intro st s e f hm
  rw [exec_interp_of_run hm]
  split
  case isTrue h => rw [interp8_of_le h.le]
  case isFalse h => rw [interp8_of_ge (not_lt.mp h)]

/-- Each channel of a mix is its own lane: no result is cut to its 8 bits (R119). -/
theorem mixRgb_toNat (a b : Color) {f : Nat} (hf : f ≤ 255) :
    (mixRgb a b f).r.toNat = interp8 a.r.toNat b.r.toNat f ∧
    (mixRgb a b f).g.toNat = interp8 a.g.toNat b.g.toNat f ∧
    (mixRgb a b f).b.toNat = interp8 a.b.toNat b.b.toNat f := by
  have hlane : ∀ x y : BitVec 8,
      (BitVec.ofNat 8 (interp8 x.toNat y.toNat f)).toNat = interp8 x.toNat y.toNat f := fun x y =>
    Nat.mod_eq_of_lt (Nat.lt_succ_of_le (interp8_le (by omega) (by omega) hf))
  exact ⟨hlane _ _, hlane _ _, hlane _ _⟩

@[simp] theorem mixRgb_factor_zero (a b : Color) : mixRgb a b 0 = a := by
  simp [mixRgb]

@[simp] theorem mixRgb_factor_full (a b : Color) : mixRgb a b 255 = b := by
  simp [mixRgb]

theorem exec_mixRgb_of_run {s : State} (hm : s.mode = .run) (a b : BitVec 24) (f : BitVec 8) :
    exec (.mixRgb a b f) s =
      .next (s.answeredOk (mixRgb (Color.unpack a) (Color.unpack b) f.toNat).word) :=
  inRun_of_run hm _

/-- Settles O40. -/
theorem mixRgbInterpolatesEachChannel : Obligations.MixRgbInterpolatesEachChannel := by
  refine ⟨fun a b f hf => mixRgb_toNat a b hf, ?_⟩
  intro s a b f hm
  obtain ⟨hr, hg, hb⟩ := mixRgb_toNat (Color.unpack a) (Color.unpack b) (f := f.toNat) (by omega)
  rw [exec_mixRgb_of_run hm, color_word_eq, hr, hg, hb]
  rfl

end Sys2Proof.Machine
end

section
/-! PROOFS. The hue interpolator (41_color.md R121, R122): its signed difference leads to the end hue by
the chosen path, and a path that does not wrap stays between the two hues. -/

namespace Sys2Proof.Machine

/-! ### The signed difference -/

/-- The signed difference of R121, its wrap selector in the order of R122. -/
theorem hueDelta_cases (mode : HueWrapMode) (wrap : Bool) (hs he : Nat) :
    hueDelta mode wrap hs he =
      if wrap = true ∧ mode = .shortestPath then
        if (he : ℤ) - hs > 180 then (he : ℤ) - hs - 360
        else if (he : ℤ) - hs < -180 then (he : ℤ) - hs + 360 else (he : ℤ) - hs
      else (he : ℤ) - hs := rfl

@[simp] theorem hueDelta_ignored (wrap : Bool) (hs he : Nat) :
    hueDelta .ignored wrap hs he = (he : ℤ) - hs := by
  simp [hueDelta_cases]

@[simp] theorem hueDelta_noWrap (mode : HueWrapMode) (hs he : Nat) :
    hueDelta mode false hs he = (he : ℤ) - hs := by
  simp [hueDelta_cases]

section
variable {hs he : Nat} (hhs : hs < 360) (hhe : he < 360)
include hhs hhe

/-- Less than a full turn, whatever the path (R121). -/
theorem abs_hueDelta_le (mode : HueWrapMode) (wrap : Bool) : |hueDelta mode wrap hs he| ≤ 359 := by
  rw [hueDelta_cases, abs_le]
  split_ifs <;> omega

/-- Either path ends at the end hue (R121, R122). -/
theorem add_hueDelta_emod (mode : HueWrapMode) (wrap : Bool) :
    (hs + hueDelta mode wrap hs he) % 360 = he := by
  rw [hueDelta_cases]
  split_ifs <;> omega

/-- The shortest path turns through at most half a circle (R122). -/
theorem abs_hueDelta_shortestPath_le : |hueDelta .shortestPath true hs he| ≤ 180 := by
  rw [hueDelta_cases, if_pos ⟨rfl, rfl⟩, abs_le]
  split_ifs <;> omega

end

/-! ### The hue on a path -/

/-- The hue R121 reaches from `hs` on a path of signed length `d`, before its reduction modulo 360. -/
def hueOnPath (hs : Nat) (d : ℤ) (f : Nat) : ℤ :=
  if d > 0 then hs + |d| * f / 255 else hs - |d| * f / 255

@[simp] theorem hueOnPath_factor_zero (hs : Nat) (d : ℤ) : hueOnPath hs d 0 = hs := by
  simp [hueOnPath]

/-- At the full factor the hue has turned by the whole path. -/
@[simp] theorem hueOnPath_factor_full (hs : Nat) (d : ℤ) : hueOnPath hs d 255 = hs + d := by
  have hfull : |d| * (255 : ℕ) / 255 = |d| := Int.mul_ediv_cancel _ (by decide)
  rw [hueOnPath, hfull]
  split
  case isTrue h => rw [abs_of_pos h]
  case isFalse h => rw [abs_of_nonpos (not_lt.mp h), sub_neg_eq_add]

/-- The hue stays between the ends of its path. -/
theorem hueOnPath_mem (hs : Nat) (d : ℤ) {f : Nat} (hf : f ≤ 255) :
    min (hs : ℤ) (hs + d) ≤ hueOnPath hs d f ∧ hueOnPath hs d f ≤ max (hs : ℤ) (hs + d) := by
  have hpos : 0 ≤ |d| * f / 255 := by positivity
  have hscaled : |d| * f / 255 ≤ |d| := by
    have h := scaled_le (d := d.natAbs) hf
    zify at h
    exact h
  unfold hueOnPath
  split
  case isTrue h =>
    rw [abs_of_pos h] at hpos hscaled ⊢
    omega
  case isFalse h =>
    rw [abs_of_nonpos (not_lt.mp h)] at hpos hscaled ⊢
    omega

/-! ### The interpolator -/

theorem interpHue_eq (mode : HueWrapMode) (wrap : Bool) (hs he f : Nat) :
    (interpHue mode wrap hs he f : ℤ) = hueOnPath hs (hueDelta mode wrap hs he) f % 360 := by
  have hnonneg : ∀ x : ℤ, ((x % 360).toNat : ℤ) = x % 360 := fun x =>
    Int.toNat_of_nonneg (Int.emod_nonneg x (by decide))
  unfold interpHue hueOnPath
  dsimp only
  split <;> simp [hnonneg]

theorem interpHue_lt (mode : HueWrapMode) (wrap : Bool) (hs he f : Nat) :
    interpHue mode wrap hs he f < 360 := by
  have h := interpHue_eq mode wrap hs he f
  omega

theorem interpHue_factor_zero (mode : HueWrapMode) (wrap : Bool) {hs : Nat} (hhs : hs < 360)
    (he : Nat) : interpHue mode wrap hs he 0 = hs := by
  have h := interpHue_eq mode wrap hs he 0
  rw [hueOnPath_factor_zero] at h
  omega

theorem interpHue_factor_full (mode : HueWrapMode) (wrap : Bool) {hs he : Nat} (hhs : hs < 360)
    (hhe : he < 360) : interpHue mode wrap hs he 255 = he := by
  have h := interpHue_eq mode wrap hs he 255
  rw [hueOnPath_factor_full, add_hueDelta_emod hhs hhe] at h
  exact_mod_cast h

/-- The direct path never leaves the interval between its two hues, so the reduction modulo 360 has no
effect (R121). -/
theorem interpHue_noWrap (mode : HueWrapMode) {hs he f : Nat} (hhs : hs < 360) (hhe : he < 360)
    (hf : f ≤ 255) : (interpHue mode false hs he f : ℤ) = hueOnPath hs ((he : ℤ) - hs) f := by
  obtain ⟨hlow, hhigh⟩ := hueOnPath_mem hs ((he : ℤ) - hs) hf
  rw [interpHue_eq, hueDelta_noWrap]
  exact Int.emod_eq_of_lt (by omega) (by omega)

/-- Settles O41: the difference written out there is `hueDelta`, the path `hueOnPath`. -/
theorem hueInterpolatorFollowsItsPath : Obligations.HueInterpolatorFollowsItsPath := by
  intro mode wrap hs he f hhs hhe hf
  refine ⟨interpHue_eq mode wrap hs he f, ?product, ?noWrap, interpHue_factor_zero mode wrap hhs he,
    interpHue_factor_full mode wrap hhs hhe⟩
  case product =>
    exact mul_le_mul (abs_hueDelta_le hhs hhe mode wrap) (Int.ofNat_le.mpr hf) (by positivity)
      (by decide)
  case noWrap =>
    rintro rfl
    exact interpHue_noWrap mode hhs hhe hf

/-- Settles O42. -/
theorem hueWrapSelectsTheShorterWay : Obligations.HueWrapSelectsTheShorterWay := by
  refine ⟨fun hs he hhs hhe => ⟨abs_hueDelta_shortestPath_le hhs hhe,
    add_hueDelta_emod hhs hhe .shortestPath true, fun h => ?_⟩, fun hs he f _ _ _ => ?_⟩
  · obtain ⟨hlow, hhigh⟩ := abs_le.mp h
    rw [hueDelta_cases, if_pos ⟨rfl, rfl⟩, if_neg (by omega), if_neg (by omega)]
  · simp [interpHue]

end Sys2Proof.Machine
end

section
/-! PROOFS. HSL to RGB (41_color.md R114 to R116): each channel is one numerator over 1200000, which is
the exact rational of the pseudocode, and FROM_HSL answers the three roundings. -/

namespace Sys2Proof.Machine

/-! ### Numerators of the datapath -/

/-- `Cn` of R114: the chroma times 10000. -/
def chromaNum (S L : Nat) : Nat := (100 - absDiff (2 * L) 100) * S

/-- `fxn` of R114: the place in the sextant, rising in an even one and falling in an odd one. -/
def placeNum (H : Nat) : Nat :=
  if H % 360 / 60 % 2 = 0 then H % 360 % 60 else 60 - H % 360 % 60

/-- The three `c1n` of R115: what each channel adds to the lightness floor, times 1200000. -/
def sextantNums (H S L : Nat) : Nat × Nat × Nat :=
  sextant (H % 360 / 60) (120 * chromaNum S L) (2 * chromaNum S L * placeNum H)

/-- The numerator over 1200000 of the channel that adds `c` to the lightness floor (R114). -/
def channelNum (S L c : Nat) : Nat := 255 * (12000 * L + c - 60 * chromaNum S L)

/-- The channel with that numerator, rounded. -/
def channel (mode : ConvRound) (S L c : Nat) : BitVec 8 :=
  BitVec.ofNat 8 (roundc mode (channelNum S L c) 1200000)

theorem hslToRgb_eq (mode : ConvRound) (H S L : Nat) :
    hslToRgb mode H S L = ⟨channel mode S L (sextantNums H S L).1,
      channel mode S L (sextantNums H S L).2.1, channel mode S L (sextantNums H S L).2.2⟩ := rfl

theorem natCast_absDiff (a b : Nat) : (absDiff a b : ℤ) = |(a : ℤ) - b| := by
  rcases le_total a b with h | h
  · rw [abs_of_nonpos (by omega), absDiff]
    omega
  · rw [abs_of_nonneg (by omega), absDiff]
    omega

theorem natCast_placeNum (H : Nat) : (placeNum H : ℤ) =
    if H % 360 / 60 % 2 = 0 then ((H % 360 % 60 : ℕ) : ℤ) else 60 - ((H % 360 % 60 : ℕ) : ℤ) := by
  unfold placeNum
  split <;> omega

theorem placeNum_le (H : Nat) : placeNum H ≤ 60 := by
  unfold placeNum
  split <;> omega

theorem natCast_chromaNum {S L : Nat} (hL : L ≤ 100) :
    (chromaNum S L : ℤ) = (100 - |2 * (L : ℤ) - 100|) * S := by
  have habs := natCast_absDiff (2 * L) 100
  have hle : absDiff (2 * L) 100 ≤ 100 := by unfold absDiff; omega
  push_cast at habs
  rw [chromaNum, Nat.cast_mul, Nat.cast_sub hle, habs]
  rfl

/-! ### The table of R115 -/

/-- An entry of the table is its `c`, its `x` or 0. -/
theorem sextant_le {k c x : Nat} (hx : x ≤ c) :
    (sextant k c x).1 ≤ c ∧ (sextant k c x).2.1 ≤ c ∧ (sextant k c x).2.2 ≤ c := by
  unfold sextant
  split <;> simp [hx]

theorem sextantNums_le (H S L : Nat) :
    (sextantNums H S L).1 ≤ 120 * chromaNum S L ∧ (sextantNums H S L).2.1 ≤ 120 * chromaNum S L ∧
      (sextantNums H S L).2.2 ≤ 120 * chromaNum S L := by
  have h : 2 * chromaNum S L * placeNum H ≤ 2 * chromaNum S L * 60 :=
    Nat.mul_le_mul_left _ (placeNum_le H)
  exact sextant_le (by omega)

/-- The exact table is the table of the numerators, over their common denominator. -/
theorem exactSextant_div (k c x : Nat) (D : ℚ) :
    exactSextant k (c / D) (x / D) =
      ((sextant k c x).1 / D, (sextant k c x).2.1 / D, (sextant k c x).2.2 / D) := by
  match k with
  | 0 | 1 | 2 | 3 | 4 => simp [exactSextant, sextant]
  | k + 5 => simp [exactSextant, sextant]

/-- The table as a chain of tests, on integers. -/
theorem natCast_sextant (k c x : Nat) :
    (if k = 0 then ((c : ℤ), (x : ℤ), (0 : ℤ)) else if k = 1 then ((x : ℤ), (c : ℤ), 0)
      else if k = 2 then (0, (c : ℤ), (x : ℤ)) else if k = 3 then (0, (x : ℤ), (c : ℤ))
      else if k = 4 then ((x : ℤ), 0, (c : ℤ)) else ((c : ℤ), 0, (x : ℤ))) =
      (((sextant k c x).1 : ℤ), ((sextant k c x).2.1 : ℤ), ((sextant k c x).2.2 : ℤ)) := by
  match k with
  | 0 | 1 | 2 | 3 | 4 => rfl
  | k + 5 => simp [sextant]

/-! ### One channel -/

/-- Rounding over 1200000 in R114's integers. -/
theorem natCast_roundc (mode : ConvRound) (n : Nat) :
    (roundc mode n 1200000 : ℤ) =
      if mode = .halfUp then ((n : ℤ) + 600000) / 1200000 else (n : ℤ) / 1200000 := by
  cases mode <;> simp [roundc]
  omega

section
variable {S L c : Nat} (hS : S ≤ 100) (hL : L ≤ 100) (hc : c ≤ 120 * chromaNum S L)

include hS hL

/-- The chroma is at most twice the lightness and twice its complement, so no channel leaves its range. -/
theorem chromaNum_le : chromaNum S L ≤ 200 * L ∧ chromaNum S L + 200 * L ≤ 20000 := by
  have hfull : chromaNum S L ≤ (100 - absDiff (2 * L) 100) * 100 := Nat.mul_le_mul_left _ hS
  unfold absDiff at hfull
  omega

/-- The subtraction of R114 does not reach below 0. -/
theorem natCast_channelNum (c : Nat) :
    (channelNum S L c : ℤ) = 255 * (12000 * L - 60 * chromaNum S L + c) := by
  obtain ⟨hfloor, -⟩ := chromaNum_le hS hL
  unfold channelNum
  omega

include hc

theorem channelNum_le : channelNum S L c ≤ 255 * 1200000 := by
  obtain ⟨-, hceiling⟩ := chromaNum_le hS hL
  unfold channelNum
  omega

theorem channel_toNat (mode : ConvRound) :
    (channel mode S L c).toNat = roundc mode (channelNum S L c) 1200000 :=
  Nat.mod_eq_of_lt (Nat.lt_succ_of_le (roundc_le mode (by decide) (channelNum_le hS hL hc)))

theorem channel_eq_roundRat (mode : ConvRound) :
    ((channel mode S L c).toNat : ℤ) = roundRat mode ((channelNum S L c : ℚ) / 1200000) := by
  rw [channel_toNat hS hL hc]
  exact_mod_cast roundc_eq_roundRat mode (channelNum S L c) (d := 1200000) (by decide)

theorem channel_eq_datapath (mode : ConvRound) :
    ((channel mode S L c).toNat : ℤ) =
      if mode = .halfUp then (255 * (12000 * (L : ℤ) - 60 * chromaNum S L + c) + 600000) / 1200000
      else 255 * (12000 * (L : ℤ) - 60 * chromaNum S L + c) / 1200000 := by
  rw [channel_toNat hS hL hc, natCast_roundc, natCast_channelNum hS hL]

theorem channelNum_div_mem :
    0 ≤ (channelNum S L c : ℚ) / 1200000 ∧ (channelNum S L c : ℚ) / 1200000 ≤ 255 := by
  have hle : (channelNum S L c : ℚ) ≤ 255 * 1200000 := mod_cast channelNum_le hS hL hc
  exact ⟨by positivity, (div_le_iff₀ (by norm_num)).mpr hle⟩

end

/-! ### The exact formula -/

theorem exactChroma_eq {S L : Nat} (hL : L ≤ 100) : exactChroma S L = (chromaNum S L : ℚ) / 10000 := by
  have h : (chromaNum S L : ℚ) = (100 - |2 * (L : ℚ) - 100|) * S := mod_cast natCast_chromaNum hL
  rw [exactChroma, h]

/-- The pseudocode of R114 adds each channel's share of the chroma to `m`; over the common denominator
that sum is the channel's numerator. -/
theorem exactHslToRgb_eq (H : Nat) {S L : Nat} (hS : S ≤ 100) (hL : L ≤ 100) :
    exactHslToRgb H S L = ((channelNum S L (sextantNums H S L).1 : ℚ) / 1200000,
      (channelNum S L (sextantNums H S L).2.1 : ℚ) / 1200000,
      (channelNum S L (sextantNums H S L).2.2 : ℚ) / 1200000) := by
  have hplace : (if H % 360 / 60 % 2 = 0 then ((H % 360 % 60 : ℕ) : ℚ) / 60
      else (60 - ((H % 360 % 60 : ℕ) : ℚ)) / 60) = (placeNum H : ℚ) / 60 := by
    unfold placeNum
    split
    case isTrue => rfl
    case isFalse => rw [Nat.cast_sub (show H % 360 % 60 ≤ 60 by omega)]; rfl
  have hC : exactChroma S L = ((120 * chromaNum S L : ℕ) : ℚ) / 1200000 := by
    rw [exactChroma_eq hL]; push_cast; ring
  have hX : ((120 * chromaNum S L : ℕ) : ℚ) / 1200000 * (placeNum H / 60) =
      ((2 * chromaNum S L * placeNum H : ℕ) : ℚ) / 1200000 := by
    push_cast; ring
  have hchannel : ∀ c : ℕ, ((c : ℚ) / 1200000 +
      ((L : ℚ) / 100 - ((120 * chromaNum S L : ℕ) : ℚ) / 1200000 / 2)) * 255 =
        (channelNum S L c : ℚ) / 1200000 := by
    intro c
    have h : (channelNum S L c : ℚ) = 255 * (12000 * L - 60 * chromaNum S L + c) :=
      mod_cast natCast_channelNum hS hL c
    rw [h]; push_cast; ring
  simp only [exactHslToRgb, hplace, hC, hX, exactSextant_div, hchannel]
  rfl

/-- Settles O35: `channelNum` is the numerator both of the exact rational and of R114's datapath. -/
theorem hslToRgbIsTheRoundedExactFormula : Obligations.HslToRgbIsTheRoundedExactFormula := by
  intro mode H S L _ hS hL
  obtain ⟨hr, hg, hb⟩ := sextantNums_le H S L
  simp only [hslToRgb_eq, exactHslToRgb_eq H hS hL]
  refine ⟨⟨channel_eq_roundRat hS hL hr mode, channel_eq_roundRat hS hL hg mode,
    channel_eq_roundRat hS hL hb mode⟩, ?range, ?datapath⟩
  case range =>
    obtain ⟨hr0, hr1⟩ := channelNum_div_mem hS hL hr
    obtain ⟨hg0, hg1⟩ := channelNum_div_mem hS hL hg
    obtain ⟨hb0, hb1⟩ := channelNum_div_mem hS hL hb
    exact ⟨hr0, hr1, hg0, hg1, hb0, hb1⟩
  case datapath =>
    have hnums := natCast_sextant (H % 360 / 60) (120 * chromaNum S L)
      (2 * chromaNum S L * placeNum H)
    push_cast [natCast_placeNum] at hnums
    push_cast [← natCast_chromaNum hL]
    rw [hnums]
    exact ⟨channel_eq_datapath hS hL hr mode, channel_eq_datapath hS hL hg mode,
      channel_eq_datapath hS hL hb mode⟩

/-! ### FROM_HSL -/

theorem hslInRange_iff (hue : BitVec 9) (sat light : BitVec 7) :
    hslInRange hue sat light = true ↔ hue.toNat ≤ 360 ∧ sat.toNat ≤ 100 ∧ light.toNat ≤ 100 := by
  simp [hslInRange, and_assoc]

theorem exec_fromHsl_of_run {s : State} (hm : s.mode = .run) (hue : BitVec 9) (sat light : BitVec 7) :
    exec (.fromHsl hue sat light) s = .next (if hslInRange hue sat light then
      s.ok (hslToRgb convRound hue.toNat sat.toNat light.toNat).word else s.raise .hslRange) :=
  inRun_of_run hm _

/-- Settles O36. -/
theorem fromHslCommandConvertsInRange : Obligations.FromHslCommandConvertsInRange := by
  intro s hue sat light hm hhue hsat hlight
  rw [exec_fromHsl_of_run hm, if_pos ((hslInRange_iff _ _ _).mpr ⟨hhue, hsat, hlight⟩),
    color_word_eq, ok_eq]

/-- Settles O37. -/
theorem fromHslOutOfRangeFaults : Obligations.FromHslOutOfRangeFaults := by
  intro s hue sat light hm hout
  rw [exec_fromHsl_of_run hm, if_neg (by rw [hslInRange_iff]; omega), raise_eq_faultedWith]
  rfl

end Sys2Proof.Machine
end

section
/-! PROOFS. RGB to HSL (41_color.md R117, R118): the rounded quotients are those of the exact rationals,
and the hue's three formulas agree where more than one channel is largest. -/

namespace Sys2Proof.Machine

/-! ### The parts of the triple -/

/-- `M` of R117. -/
def Color.largest (c : Color) : Nat := max c.r.toNat (max c.g.toNat c.b.toNat)

/-- `n` of R117. -/
def Color.smallest (c : Color) : Nat := min c.r.toNat (min c.g.toNat c.b.toNat)

/-- The hue numerator of R117 over `c.largest - c.smallest`. -/
def Color.hueNumerator (c : Color) : ℤ :=
  hueNum c.r.toNat c.g.toNat c.b.toNat c.largest (c.largest - c.smallest : ℕ)

theorem Color.smallest_le_largest (c : Color) : c.smallest ≤ c.largest := by
  unfold Color.smallest Color.largest
  omega

theorem Color.largest_le (c : Color) : c.largest ≤ 255 := by
  unfold Color.largest
  omega

theorem rgbToHsl_l (mode : ConvRound) (c : Color) :
    (rgbToHsl mode c).l = roundc mode (100 * (c.largest + c.smallest)) 510 := by
  unfold rgbToHsl
  dsimp only
  split <;> rfl

/-- A grey has neither hue nor saturation (R117). -/
theorem rgbToHsl_of_grey (mode : ConvRound) {c : Color} (h : c.largest = c.smallest) :
    (rgbToHsl mode c).h = 0 ∧ (rgbToHsl mode c).s = 0 := by
  have hd : c.largest - c.smallest = 0 := by omega
  unfold Color.largest Color.smallest at hd
  simp [rgbToHsl, hd]

section
variable {c : Color} (h : c.smallest < c.largest)
include h

theorem rgbToHsl_s (mode : ConvRound) : (rgbToHsl mode c).s =
    roundc mode (100 * (c.largest - c.smallest)) (255 - absDiff (c.largest + c.smallest) 255) := by
  have hd : c.largest - c.smallest ≠ 0 := by omega
  exact congrArg Hsl.s (if_neg hd)

theorem rgbToHsl_h (mode : ConvRound) : (rgbToHsl mode c).h =
    roundc mode c.hueNumerator.toNat (c.largest - c.smallest) % 360 := by
  have hd : c.largest - c.smallest ≠ 0 := by omega
  exact congrArg Hsl.h (if_neg hd)

/-- The saturation's numerator never exceeds 100 times its denominator. -/
theorem diff_le_saturation_denominator :
    c.largest - c.smallest ≤ 255 - absDiff (c.largest + c.smallest) 255 := by
  have hM := c.largest_le
  unfold absDiff
  omega

end

/-! ### Ranges -/

theorem rgbToHsl_h_lt (mode : ConvRound) (c : Color) : (rgbToHsl mode c).h < 360 := by
  rcases c.smallest_le_largest.eq_or_lt with h | h
  · rw [(rgbToHsl_of_grey mode h.symm).1]
    decide
  · rw [rgbToHsl_h h]
    exact Nat.mod_lt _ (by decide)

theorem rgbToHsl_s_le (mode : ConvRound) (c : Color) : (rgbToHsl mode c).s ≤ 100 := by
  rcases c.smallest_le_largest.eq_or_lt with h | h
  · rw [(rgbToHsl_of_grey mode h.symm).2]
    decide
  · have hd := diff_le_saturation_denominator h
    rw [rgbToHsl_s h]
    exact roundc_le mode (by omega) (Nat.mul_le_mul_left 100 hd)

theorem rgbToHsl_l_le (mode : ConvRound) (c : Color) : (rgbToHsl mode c).l ≤ 100 := by
  have hn := c.smallest_le_largest
  have hM := c.largest_le
  rw [rgbToHsl_l]
  exact roundc_le mode (by decide) (by omega)

/-! ### Lightness and saturation -/

theorem rgbToHsl_l_eq (mode : ConvRound) (c : Color) :
    ((rgbToHsl mode c).l : ℤ) = roundRat mode (exactLightness c.largest c.smallest) := by
  have h := roundc_eq_roundRat mode (100 * (c.largest + c.smallest)) (d := 510) (by decide)
  rw [rgbToHsl_l, h, exactLightness]
  push_cast
  rfl

section
variable {c : Color} (h : c.smallest < c.largest)
include h

theorem rgbToHsl_s_eq (mode : ConvRound) :
    ((rgbToHsl mode c).s : ℤ) = roundRat mode (exactSaturation c.largest c.smallest) := by
  have hd := diff_le_saturation_denominator h
  have habs : (absDiff (c.largest + c.smallest) 255 : ℚ) = |(c.largest : ℚ) + c.smallest - 255| :=
    mod_cast natCast_absDiff (c.largest + c.smallest) 255
  rw [rgbToHsl_s h, roundc_eq_roundRat mode _ (by omega), exactSaturation, ← habs, Nat.cast_mul,
    Nat.cast_sub h.le, Nat.cast_sub (show absDiff (c.largest + c.smallest) 255 ≤ 255 by omega)]
  rfl

/-! ### Hue -/

theorem hueNumerator_of_red (hM : c.largest = c.r.toNat) :
    c.hueNumerator = if 60 * ((c.g.toNat : ℤ) - c.b.toNat) < 0
      then 60 * ((c.g.toNat : ℤ) - c.b.toNat) + 360 * (c.largest - c.smallest)
      else 60 * ((c.g.toNat : ℤ) - c.b.toNat) := by
  rw [Color.hueNumerator, hueNum, if_pos (congrArg _ hM), Nat.cast_sub h.le]

/-- With a largest red as well, the smallest channel is blue and both formulas give 60 degrees. -/
theorem hueNumerator_of_green (hM : c.largest = c.g.toNat) :
    c.hueNumerator = 60 * ((c.b.toNat : ℤ) - c.r.toNat) + 120 * (c.largest - c.smallest) := by
  unfold Color.hueNumerator hueNum
  unfold Color.largest Color.smallest at *
  split_ifs <;> omega

/-- With a largest red as well, the smallest channel is green and both formulas give 300 degrees; with a
largest green, it is red and both give 180. -/
theorem hueNumerator_of_blue (hM : c.largest = c.b.toNat) :
    c.hueNumerator = 60 * ((c.r.toNat : ℤ) - c.g.toNat) + 240 * (c.largest - c.smallest) := by
  unfold Color.hueNumerator hueNum
  unfold Color.largest Color.smallest at *
  split_ifs <;> omega

theorem hueNumerator_nonneg : 0 ≤ c.hueNumerator := by
  unfold Color.hueNumerator hueNum
  unfold Color.largest Color.smallest at *
  split_ifs <;> omega

theorem rgbToHsl_h_eq (mode : ConvRound) : ((rgbToHsl mode c).h : ℤ) =
    roundRat mode ((c.hueNumerator : ℚ) / ((c.largest : ℚ) - c.smallest)) % 360 := by
  have hnum : ((c.hueNumerator.toNat : ℕ) : ℚ) = (c.hueNumerator : ℚ) :=
    mod_cast Int.toNat_of_nonneg (hueNumerator_nonneg h)
  rw [rgbToHsl_h h, Int.natCast_mod, roundc_eq_roundRat mode _ (Nat.sub_pos_of_lt h), hnum,
    Nat.cast_sub h.le]
  rfl

theorem largest_sub_smallest_pos : 0 < (c.largest : ℚ) - c.smallest :=
  sub_pos.mpr (mod_cast h)

theorem exactHueRed_eq (hM : c.largest = c.r.toNat) :
    exactHueRed c.g.toNat c.b.toNat ((c.largest : ℚ) - c.smallest) =
      c.hueNumerator / ((c.largest : ℚ) - c.smallest) := by
  have hd := largest_sub_smallest_pos h
  have hsign : 60 * ((c.g.toNat : ℚ) - c.b.toNat) / ((c.largest : ℚ) - c.smallest) < 0 ↔
      60 * ((c.g.toNat : ℤ) - c.b.toNat) < 0 := by
    rw [div_lt_iff₀ hd, zero_mul]
    exact_mod_cast Iff.rfl
  rw [exactHueRed, hueNumerator_of_red h hM]
  simp only [hsign]
  split
  case isTrue => push_cast; rw [add_div, mul_div_cancel_right₀ _ hd.ne']
  case isFalse => push_cast; rfl

theorem exactHueGreen_eq (hM : c.largest = c.g.toNat) :
    exactHueGreen c.r.toNat c.b.toNat ((c.largest : ℚ) - c.smallest) =
      c.hueNumerator / ((c.largest : ℚ) - c.smallest) := by
  have hd := largest_sub_smallest_pos h
  rw [exactHueGreen, hueNumerator_of_green h hM]
  push_cast
  rw [add_div, mul_div_cancel_right₀ _ hd.ne']

theorem exactHueBlue_eq (hM : c.largest = c.b.toNat) :
    exactHueBlue c.r.toNat c.g.toNat ((c.largest : ℚ) - c.smallest) =
      c.hueNumerator / ((c.largest : ℚ) - c.smallest) := by
  have hd := largest_sub_smallest_pos h
  rw [exactHueBlue, hueNumerator_of_blue h hM]
  push_cast
  rw [add_div, mul_div_cancel_right₀ _ hd.ne']

end

/-- Settles O38: every hue formula whose channel is a largest one is the hue numerator's quotient. -/
theorem rgbToHslIsTheRoundedExactFormula : Obligations.RgbToHslIsTheRoundedExactFormula := by
  intro mode c
  refine ⟨rgbToHsl_l_eq mode c, rgbToHsl_of_grey mode, fun hne => ?_,
    Nat.le_of_lt_succ (rgbToHsl_h_lt mode c), rgbToHsl_s_le mode c, rgbToHsl_l_le mode c⟩
  have h : c.smallest < c.largest := c.smallest_le_largest.lt_of_ne hne.symm
  refine ⟨rgbToHsl_s_eq h mode, fun hM => ?_, fun hM => ?_, fun hM => ?_⟩
  · exact (exactHueRed_eq h hM) ▸ rgbToHsl_h_eq h mode
  · exact (exactHueGreen_eq h hM) ▸ rgbToHsl_h_eq h mode
  · exact (exactHueBlue_eq h hM) ▸ rgbToHsl_h_eq h mode

/-! ### TO_HSL -/

theorem exec_toHsl_of_run {s : State} (hm : s.mode = .run) (rgb : BitVec 24) :
    exec (.toHsl rgb) s = .next (s.answeredOk (rgbToHsl convRound (Color.unpack rgb)).word) :=
  inRun_of_run hm _

/-- The triple of a colour as a response word: its ranges fit the fields of R11. -/
theorem rgbToHsl_word_eq (mode : ConvRound) (c : Color) :
    (rgbToHsl mode c).word = BitVec.ofNat 32
      (65536 * (rgbToHsl mode c).h + 256 * (rgbToHsl mode c).s + (rgbToHsl mode c).l) := by
  have hh := rgbToHsl_h_lt mode c
  have hs := rgbToHsl_s_le mode c
  have hl := rgbToHsl_l_le mode c
  exact hsl_word_eq _ (by omega) (by omega) (by omega)

/-- Settles O39. -/
theorem toHslCommandPacksTheTriple : Obligations.ToHslCommandPacksTheTriple := by
  intro s rgb hm
  rw [exec_toHsl_of_run hm, rgbToHsl_word_eq]
  rfl

end Sys2Proof.Machine
end

section
/-! PROOFS. The HSL mixer (41_color.md R123 to R125): its interpolated triple stays in range, and at the
first end point it is the conversion there and back. -/

namespace Sys2Proof.Machine

theorem exec_mixHsl_of_run {s : State} (hm : s.mode = .run) (wrap : BitVec 1) (a b : BitVec 24)
    (f : BitVec 8) : exec (.mixHsl wrap a b f) s =
      .next (s.answeredOk (mixHsl convRound hueWrapMode (Color.unpack a) (Color.unpack b) f.toNat
        (wrap.getLsbD 0)).word) :=
  inRun_of_run hm _

/-- Settles O43. -/
theorem mixHslConvertsInterpolatesConvertsBack : Obligations.MixHslConvertsInterpolatesConvertsBack := by
  intro s wrap a b f hm
  have hwrap : wrap.getLsbD 0 = (wrap == 1) := by revert wrap; decide
  refine ⟨interpHue_lt .., interp8_le (rgbToHsl_s_le ..) (rgbToHsl_s_le ..) (by omega),
    interp8_le (rgbToHsl_l_le ..) (rgbToHsl_l_le ..) (by omega), ?_⟩
  rw [exec_mixHsl_of_run hm, color_word_eq, hwrap]
  rfl

/-- At factor 0 the three parts stay at their starts (R125). -/
theorem mixHsl_factor_zero (round : ConvRound) (hue : HueWrapMode) (a b : Color) (wrap : Bool) :
    mixHsl round hue a b 0 wrap =
      hslToRgb round (rgbToHsl round a).h (rgbToHsl round a).s (rgbToHsl round a).l := by
  simp [mixHsl, interpHue_factor_zero hue wrap (rgbToHsl_h_lt round a)]

/-- R125's example of a conversion there and back that loses one step of red. -/
theorem hslToRgb_rgbToHsl_7F14FF :
    hslToRgb .halfUp (rgbToHsl .halfUp ⟨0x7F, 0x14, 0xFF⟩).h (rgbToHsl .halfUp ⟨0x7F, 0x14, 0xFF⟩).s
      (rgbToHsl .halfUp ⟨0x7F, 0x14, 0xFF⟩).l = ⟨126, 20, 255⟩ := by
  decide

/-- Settles O44. -/
theorem mixersAtTheirEndpoints : Obligations.MixersAtTheirEndpoints := by
  refine ⟨fun a b => ⟨mixRgb_factor_zero a b, mixRgb_factor_full a b⟩, mixHsl_factor_zero, ?roundTrip,
    fun round hue f w _ => ⟨mixRgb_self Color.black f, mixHsl_black round hue f w⟩⟩
  case roundTrip =>
    intro hue b w
    rw [mixHsl_factor_zero, hslToRgb_rgbToHsl_7F14FF]

end Sys2Proof.Machine
end

section
/-! PROOFS. The Ratio unit (42_ratio.md R150 to R153): the saturator by ranges of its operand, its loss below
one step, and its two commands. -/

namespace Sys2Proof.Machine

/-! ### The saturator -/

theorem ratioSat_of_nonpos {x : ℤ} (h : x ≤ 0) : ratioSat x = 0 := if_pos h

theorem ratioSat_of_ge {x : ℤ} (h : 65536 ≤ x) : ratioSat x = 255 := by
  rw [ratioSat, if_neg (by omega), if_pos h]
  rfl

/-- Between the clamps the value is the whole number of steps; 0 also has this form. -/
theorem ratioSat_of_lt {x : ℤ} (h0 : 0 ≤ x) (h : x < 65536) : (ratioSat x : ℤ) = x / 256 := by
  unfold ratioSat
  split_ifs <;> omega

theorem ratioSat_lt (x : ℤ) : ratioSat x < 256 := by
  rcases lt_or_ge x 65536 with h | h
  · rcases lt_or_ge x 0 with h0 | h0
    · rw [ratioSat_of_nonpos h0.le]; decide
    · have := ratioSat_of_lt h0 h
      omega
  · rw [ratioSat_of_ge h]; decide

/-- The quotient `x / 65536` lies in the step of `ratioSat x` (R152), by the division with remainder. -/
theorem ratioSat_loss {x : ℤ} (h0 : 0 ≤ x) (h : x < 65536) :
    (ratioSat x : ℚ) / 256 ≤ (x : ℚ) / 65536 ∧ (x : ℚ) / 65536 < ((ratioSat x : ℚ) + 1) / 256 := by
  have hq := ratioSat_of_lt h0 h
  have hlow : (256 * ratioSat x : ℚ) ≤ x := by exact_mod_cast (by omega : 256 * (ratioSat x : ℤ) ≤ x)
  have hhigh : (x : ℚ) < 256 * (ratioSat x + 1) := by
    exact_mod_cast (by omega : x < 256 * ((ratioSat x : ℤ) + 1))
  constructor <;> linarith

/-- Settles O45. -/
theorem ratioSaturatorClampsAndTruncates : Obligations.RatioSaturatorClampsAndTruncates :=
  ⟨fun _ => ratioSat_of_nonpos, fun _ => ratioSat_of_ge, fun _ h0 => ratioSat_of_lt h0.le,
    fun _ => ratioSat_loss⟩

/-! ### RATIO_SAT -/

theorem exec_ratioSat_of_run {s : State} (hm : s.mode = .run) (x : Word32) :
    exec (.ratioSat x) s = .next (s.answeredOk (BitVec.ofNat 32 (ratioSat x.toInt))) := by
  rw [← byteWord_eq (ratioSat_lt x.toInt)]
  exact inRun_of_run hm _

/-- The words of the lower clamp: 0, and from 2^31 up the negative operands (R84). -/
theorem toInt_nonpos_iff (x : Word32) : x.toInt ≤ 0 ↔ x.toNat = 0 ∨ 2147483648 ≤ x.toNat := by
  have hx := x.isLt
  rw [x.toInt_eq_toNat_cond]
  split <;> omega

/-- Settles O46, by the sign of the operand: a positive one is the word itself. -/
theorem ratioSatCommandReadsASignedOperand : Obligations.RatioSatCommandReadsASignedOperand := by
  intro s x hm
  rw [exec_ratioSat_of_run hm]
  split_ifs with hlow hhigh
  · rw [ratioSat_of_nonpos ((toInt_nonpos_iff x).2 hlow)]; rfl
  all_goals have hval : x.toInt = x.toNat := BitVec.toInt_eq_toNat_of_lt (by omega)
  · rw [ratioSat_of_ge (by omega)]; rfl
  · have hq := ratioSat_of_lt (x := x.toInt) (by omega) (by omega)
    rw [show ratioSat x.toInt = x.toNat / 256 by omega]

/-! ### RATIO_FIX -/

/-- The Q16.16 word of a Ratio is its numerator times 256 (R153). -/
theorem toNat_setWidth_shiftLeft_eight (r : BitVec 8) : (r.setWidth 32 <<< 8).toNat = r.toNat * 256 := by
  have hr := r.isLt
  rw [BitVec.toNat_shiftLeft, BitVec.toNat_setWidth, Nat.shiftLeft_eq]
  omega

theorem exec_ratioFix_of_run {s : State} (hm : s.mode = .run) (r : BitVec 8) :
    exec (.ratioFix r) s = .next (s.answeredOk (r.setWidth 32 <<< 8)) := by
  rw [← BitVec.setWidth_eq (r.setWidth 32 <<< 8), ← BitVec.ofNat_toNat, toNat_setWidth_shiftLeft_eight]
  exact inRun_of_run hm _

/-- Settles O47: a Ratio's word is a whole number of steps between the clamps, so nothing is cut off. -/
theorem ratioFixIsExactAndTakenBack : Obligations.RatioFixIsExactAndTakenBack := by
  refine ⟨fun s r hm => exec_ratioFix_of_run hm r, fun s r hm => ?_⟩
  have hr := r.isLt
  have hval : (r.setWidth 32 <<< 8).toInt = r.toNat * 256 := by
    rw [BitVec.toInt_eq_toNat_of_lt] <;> rw [toNat_setWidth_shiftLeft_eight] <;> omega
  have hq := ratioSat_of_lt (x := r.toNat * 256) (by omega) (by omega)
  rw [exec_ratioSat_of_run hm, hval, show ratioSat (r.toNat * 256) = r.toNat by omega,
    BitVec.ofNat_toNat]

end Sys2Proof.Machine
end

section
/-! PROOFS. The phase-offset unit (43_cue.md R170 to R176): the bounds of its parts, and when two times and
channels have the same progress. -/

namespace Sys2Proof.Machine

/-! ### The parts of the progress -/

theorem effectiveChannel_le (rev : Bool) {ch : Nat} (h : ch ≤ 11) : effectiveChannel rev ch ≤ 11 := by
  cases rev
  · exact Nat.sub_le 11 ch
  · exact h

theorem State.dur_le (s : State) : s.dur ≤ 65535 :=
  Nat.le_of_lt_succ (s.cue.durationMs.extractLsb' 0 16).isLt

/-- The largest offset is that of TD = 1, where nothing is rounded (R171). -/
theorem phaseOffset_le {dur td eff : Nat} (hdur : dur ≤ 65535) (heff : eff ≤ 11) (htd : 1 ≤ td) :
    phaseOffset dur td eff ≤ 720885 := by
  have hproduct : dur * eff ≤ 65535 * 11 := Nat.mul_le_mul hdur heff
  exact Nat.div_le_of_le_mul (by omega)

/-- A whole number of steps of TD in the product passes the rounding of R171 as it is. -/
theorem phaseOffset_add {dur td k : Nat} (eff : Nat) (htd : 1 ≤ td) (hk : td ∣ dur * k) :
    phaseOffset dur td (eff + k) = phaseOffset dur td eff + dur * k / td := by
  obtain ⟨q, hq⟩ := hk
  rw [phaseOffset, phaseOffset, rdiv, rdiv, Nat.mul_add, hq, Nat.mul_div_cancel_left q htd,
    Nat.add_right_comm, Nat.add_mul_div_left _ _ htd]

/-- Below DUR the rounding cannot carry a fraction past 255 (R173). -/
theorem progressFraction_le {wrapped dur : Nat} (h : wrapped < dur) :
    progressFraction wrapped dur ≤ 255 := by
  apply Nat.le_of_lt_succ
  rw [progressFraction, rdiv, Nat.div_lt_iff_lt_mul (by omega)]
  omega

/-! ### The progress -/

section
variable {s : State}

/-- The guard of R174. -/
theorem progress_of_guard (h : s.dur = 0 ∨ s.td = 0) (time ch : Nat) : s.progress time ch = 0 :=
  if_pos h

theorem progress_of_pos (hdur : 1 ≤ s.dur) (htd : 1 ≤ s.td) (time ch : Nat) :
    s.progress time ch = progressFraction
      (wrappedTime time (phaseOffset s.dur s.td (effectiveChannel s.rev ch)) s.dur) s.dur :=
  if_neg (by omega)

theorem progress_le (s : State) (time ch : Nat) : s.progress time ch ≤ 255 := by
  by_cases h : s.dur = 0 ∨ s.td = 0
  · simp [progress_of_guard h]
  · rw [progress_of_pos (by omega) (by omega)]
    exact progressFraction_le (Nat.mod_lt _ (by omega))

/-- Under the guard too, the progress depends on the time and the channel only by their wrapped time. -/
theorem progress_eq_of_wrappedTime_eq {time₁ time₂ ch₁ ch₂ : Nat}
    (h : wrappedTime time₁ (phaseOffset s.dur s.td (effectiveChannel s.rev ch₁)) s.dur =
      wrappedTime time₂ (phaseOffset s.dur s.td (effectiveChannel s.rev ch₂)) s.dur) :
    s.progress time₁ ch₁ = s.progress time₂ ch₂ := by
  simp only [State.progress, h]

end

/-- Settles O48. -/
theorem progressFollowsThePhaseOffset : Obligations.ProgressFollowsThePhaseOffset := by
  intro s time ch _ hch
  refine ⟨fun h => progress_of_guard h time ch, fun hdur htd => ?_⟩
  have heff := effectiveChannel_le s.rev hch
  exact ⟨progress_of_pos hdur htd time ch, heff, phaseOffset_le s.dur_le heff htd, Nat.mod_lt _ hdur,
    (Nat.mod_add_mod _ _ _).symm, progress_le s time ch⟩

/-- Settles O51: in both parts the two sides have the same wrapped time, in the second because the offsets
differ by exactly the time added. -/
theorem progressIsPeriodicAndPhaseShifted : Obligations.ProgressIsPeriodicAndPhaseShifted := by
  constructor
  · intro s time ch
    apply progress_eq_of_wrappedTime_eq
    rw [wrappedTime, wrappedTime, Nat.add_right_comm, Nat.add_mod_right]
  · intro s time ch₁ ch₂ k _ _ htd hk heff
    apply progress_eq_of_wrappedTime_eq
    rw [heff, phaseOffset_add _ htd hk, wrappedTime, wrappedTime, Nat.add_right_comm, Nat.add_assoc]

/-! ### PROGRESS, and the channel check it shares with CURRENT_COLOR -/

/-- Settles O49: a progress fits its byte. -/
theorem progressCommandAnswersProgress : Obligations.ProgressCommandAnswersProgress := by
  intro s ch time hm hch
  rw [exec_progress_of_run hm hch, byteWord_eq (Nat.lt_succ_of_le (progress_le s _ _))]

/-- In RUN mode a command that checks its channel first faults on 12 to 15 (R175, R181, R222). -/
theorem inRun_channelRange {s : State} {ch : BitVec 4} (hm : s.mode = .run) (hch : 12 ≤ ch.toNat)
    (body : State) : s.inRun (if channelInRange ch then body else s.raise .channelRange) =
      .next (s.faultedWith 8) := by
  have hout : ¬ channelInRange ch = true := by simp [channelInRange, hch]
  rw [inRun_of_run hm, if_neg hout, raise_eq_faultedWith]
  rfl

/-- Settles O50: the channel check stands before everything that reads a register. -/
theorem channelOutOfRangeFaults : Obligations.ChannelOutOfRangeFaults :=
  fun _ _ _ hm hch => ⟨inRun_channelRange hm hch _, inRun_channelRange hm hch _⟩

end Sys2Proof.Machine
end

section
/-! PROOFS. The mixing factor (43_cue.md R177 to R179): its two edges, and their common range. -/

namespace Sys2Proof.Machine

/-! ### The two edges -/

section
variable {rr p : Nat}

/-- The rising edge for RR above 0 (R177). -/
theorem mixingFactor_rising (hp : p ≤ rr) (hrr : 1 ≤ rr) :
    mixingFactor rr p = min 255 (256 * p / rr) := by
  rw [mixingFactor, if_pos hp, if_neg (by omega)]
  rfl

/-- The falling edge (R178). -/
theorem mixingFactor_falling (hp : rr < p) :
    mixingFactor rr p = 255 - min 255 (256 * (p - rr) / (255 - rr)) :=
  if_neg (by omega)

/-- At the ramp ratio the quotient is 256, which saturates; RR = 0 has its peak by D20 (R177). -/
theorem mixingFactor_peak (rr : Nat) : mixingFactor rr rr = 255 := by
  rcases rr.eq_zero_or_pos with rfl | hrr
  · rfl
  · rw [mixingFactor_rising le_rfl hrr, Nat.mul_div_cancel _ hrr]
    rfl

/-- At progress 255 the falling edge's quotient is 256, which saturates (R178). -/
theorem mixingFactor_end (hrr : rr < 255) : mixingFactor rr 255 = 0 := by
  rw [mixingFactor_falling hrr, Nat.mul_div_cancel _ (by omega)]
  rfl

theorem mixingFactor_le (rr p : Nat) : mixingFactor rr p ≤ 255 := by
  rcases lt_trichotomy p rr with hp | rfl | hp
  · rw [mixingFactor_rising hp.le (by omega)]
    exact Nat.min_le_left _ _
  · exact (mixingFactor_peak p).le
  · rw [mixingFactor_falling hp]
    exact Nat.sub_le _ _

end

/-- Settles O52. -/
theorem mixingFactorRisesAndFalls : Obligations.MixingFactorRisesAndFalls := by
  intro rr p _ _
  refine ⟨?zeroRatio, mixingFactor_rising, mixingFactor_falling, mixingFactor_peak rr,
    mixingFactor_end, mixingFactor_le rr p⟩
  case zeroRatio =>
    intro hp hrr
    rw [show p = rr by omega]
    exact mixingFactor_peak rr

/-! ### MIX_FACTOR -/

/-- Settles O53, by the cases of R179's pseudocode. -/
theorem mixFactorCommandAnswersTheFactor : Obligations.MixFactorCommandAnswersTheFactor := by
  intro s p hm rr
  rw [exec_mixFactor_of_run hm, byteWord_eq (Nat.lt_succ_of_le (mixingFactor_le _ _))]
  have hrr : s.rr = rr := rfl
  rw [hrr]
  split_ifs with hp hzero
  · rw [show p.toNat = rr by omega, mixingFactor_peak]
  · rw [mixingFactor_rising hp (by omega)]
  · rw [mixingFactor_falling (by omega)]

end Sys2Proof.Machine
end

section
/-! PROOFS. The ramp mux (43_cue.md R180, R181): one rule for each ramp type, and the command that answers
it. -/

namespace Sys2Proof.Machine

section
variable {s : State} (ha : s.active = true) (time : Word32) (ch : BitVec 4)
include ha

/-- Jump (R180). -/
theorem currentColor_of_jump (hkind : s.rampKind = 0) : s.currentColor time ch =
    if s.progress time.toNat ch.toNat < s.rr then s.startColor else s.endColor := by
  simp [State.currentColor, ha, hkind]

/-- LinearRGB (R180). -/
theorem currentColor_of_linearRgb (hkind : s.rampKind = 1) : s.currentColor time ch =
    mixRgb s.startColor s.endColor (mixingFactor s.rr (s.progress time.toNat ch.toNat)) := by
  simp [State.currentColor, ha, hkind]

/-- LinearHSL (R180). -/
theorem currentColor_of_linearHsl (hkind : s.rampKind = 2) : s.currentColor time ch =
    mixHsl convRound hueWrapMode s.startColor s.endColor
      (mixingFactor s.rr (s.progress time.toNat ch.toNat)) s.rampWrap := by
  simp [State.currentColor, ha, hkind]

end

/-- CURRENT_COLOR answers its colour in the packing of R11 (R181). -/
theorem exec_currentColor_of_eq {s : State} {ch : BitVec 4} {time : Word32} (hm : s.mode = .run)
    (hch : ch.toNat < 12) {c : Color} (hc : s.currentColor time ch = c) :
    exec (.currentColor ch time) s =
      .next (s.answeredOk (BitVec.ofNat 32 (65536 * c.r.toNat + 256 * c.g.toNat + c.b.toNat))) := by
  rw [exec_currentColor_of_run hm hch, hc, color_word_eq]

/-- A stored colour's channels are the bytes of its register (R11, R31, R32). -/
theorem unpack_extractLsb' (v : Word32) : Color.unpack (v.extractLsb' 0 24) =
    ⟨v.extractLsb' 16 8, v.extractLsb' 8 8, v.extractLsb' 0 8⟩ := by
  rw [Color.unpack]
  congr 1 <;> exact BitVec.extractLsb'_extractLsb'_of_le (by decide)

/-- Settles O54. -/
theorem currentColorSelectsTheRamp : Obligations.CurrentColorSelectsTheRamp := by
  intro s ch time hm hch p rr answers start stop kind
  have hstart : s.startColor = start := unpack_extractLsb' _
  have hstop : s.endColor = stop := unpack_extractLsb' _
  have hanswers : ∀ {c}, s.currentColor time ch = c → answers c := exec_currentColor_of_eq hm hch
  refine ⟨?inactive, ?jump, ?linearRgb, ?linearHsl, _, hanswers rfl⟩
  case inactive => exact fun ha => hanswers (currentColor_of_inactive ha time ch)
  all_goals
    rw [← hstart, ← hstop]
    intro ha hkind
  case jump => exact hanswers (currentColor_of_jump ha time ch hkind)
  case linearRgb => exact hanswers (currentColor_of_linearRgb ha time ch hkind)
  case linearHsl => exact hanswers (currentColor_of_linearHsl ha time ch hkind)

end Sys2Proof.Machine
end

section
/-! PROOFS. NOP and the whole of REG_WRITE (44_access.md R200, R201): the checks of a write as one chain
over its register, and that chain read at the register's index. -/

namespace Sys2Proof.Machine

/-! ### NOP (R200) -/

/-- A word of NOP's opcode with a payload bit set is not NOP's all-zero pattern (R85, R86). -/
theorem decode_of_nop_payload {w : Word64} (hop : w.extractLsb' 60 4 = 0)
    (hpayload : w.extractLsb' 0 60 ≠ 0) : decode w = .error .reservedBits := by
  have hne : w &&& Opcode.nop.mask ≠ Opcode.nop.pattern := by
    intro h
    have hzero : w = 0 := BitVec.and_allOnes.symm.trans h
    exact hpayload (by rw [hzero]; rfl)
  rw [decode_of_opcode (o := .nop) hop, if_neg hne]

/-- Settles O22. -/
theorem nopAnswersZeroAndChangesNothing : Obligations.NopAnswersZeroAndChangesNothing :=
  ⟨fun _ hm => inRun_of_run hm _, fun _ hm => inRun_of_faulted hm _, rfl,
    fun _ hop hpayload => decode_of_nop_payload hop hpayload⟩

/-! ### The checks of REG_WRITE by register (R201, R222) -/

/-- In RUN mode a REG_WRITE is decided by the first check its word fails. -/
theorem exec_regWrite_of_run {s : State} (hm : s.mode = .run) (r : RegName) (v : Word32) :
    exec (.regWrite r.index v) s =
      .next ((s.writeFault r v).elim ((s.writeReg r v).ok 0) s.raise) := by
  cases hf : s.writeFault r v with
  | none => exact exec_regWrite_completes hm hf
  | some c => exact exec_regWrite_faults hm hf

/-- The checks of a register other than the read-only STATUS, in R201's order, each with its fault. -/
theorem exec_regWrite_checks {s : State} (hm : s.mode = .run) {r : RegName} (hr : r ≠ .status)
    (v : Word32) : exec (.regWrite r.index v) s = .next (
      if r ≠ .ctrl ∧ s.active = false then s.raise .noActiveCue
      else if v &&& ~~~ r.fieldMask ≠ 0 then s.raise .illegalValue
      else if r = .rampType ∧ legalRamp v = false then s.raise .illegalValue
      else if r = .timeDivisor ∧ v = 0 then s.raise .zeroDivisor
      else if r = .durationMs ∧ v = 0 then s.raise .zeroDuration
      else (s.writeReg r v).ok 0) := by
  rw [exec_regWrite_of_run hm, State.writeFault, if_neg hr]
  split_ifs <;> rfl

/-- Outside the implemented writable registers a REG_WRITE faults with BAD_REGISTER (R33, R201). -/
theorem exec_regWrite_badRegister {s : State} (hm : s.mode = .run) {idx : BitVec 4}
    (hbad : idx.toNat ≥ 10 ∨ idx.toNat = 1) (v : Word32) :
    exec (.regWrite idx v) s = .next (s.faultedWith 3) := by
  rcases hbad with hreserved | hstatus
  · exact (reservedIndicesFaultWithBadRegister s idx v hm hreserved).2
  · obtain rfl : RegName.status.index = idx := BitVec.eq_of_toNat_eq hstatus.symm
    exact (exec_regWrite_faults hm rfl).trans (congrArg _ (raise_eq_faultedWith s .badRegister))

/-! ### Registers by their index (R61) -/

theorem index_toNat_eq_iff (r q : RegName) : r.index.toNat = q.index.toNat ↔ r = q :=
  BitVec.toNat_inj.trans index_injective.eq_iff

/-- The Cue registers are those at the indices 2 to 9; STATUS and CTRL stand below them. -/
theorem index_mem_cue_iff {r : RegName} (hr : r ≠ .status) :
    (2 ≤ r.index.toNat ∧ r.index.toNat ≤ 9) ↔ r ≠ .ctrl := by
  revert hr
  cases r <;> decide

theorem legalRamp_eq_false_iff (v : Word32) :
    legalRamp v = false ↔ v.extractLsb' 0 3 ∉ [0b000#3, 0b001#3, 0b010#3, 0b110#3] := by
  rw [← legalRamp_iff, Bool.not_eq_true]

/-- A write of CTRL, decided by the bit ACTIVE of its word (R23). -/
theorem writeReg_ctrl_eq_ite (s : State) (v : Word32) : s.writeReg .ctrl v =
    if v.getLsbD 0 = false then { s with ctrl := 0, cue := Cue.default } else { s with ctrl := 1 } := by
  split
  case isTrue h => exact writeReg_ctrl_of_clear s h
  case isFalse h => exact writeReg_ctrl_of_set s (Bool.eq_true_of_not_eq_false h)

/-- Settles O23: past BAD_REGISTER the index is that of a writable register, and there each check and each
effect of the chain is the register's own. -/
theorem regWriteFollowsItsChecksInOrder : Obligations.RegWriteFollowsItsChecksInOrder := by
  intro s idx v hm n fieldMask
  by_cases hbad : n ≥ 10 ∨ n = 1
  · rw [if_pos hbad, exec_regWrite_badRegister hm hbad]
  obtain ⟨himplemented, hwritable⟩ := not_or.1 hbad
  obtain ⟨r, hidx⟩ := exists_ofIndex_of_le (idx := idx) (by omega)
  obtain rfl := index_of_ofIndex hidx
  have hr : r ≠ .status := mt (index_toNat_eq_iff r .status).2 hwritable
  have hinactive : (2 ≤ n ∧ n ≤ 9 ∧ s.ctrl.getLsbD 0 = false) ↔ r ≠ .ctrl ∧ s.active = false :=
    and_assoc.symm.trans (and_congr_left' (index_mem_cue_iff hr))
  have hmask : fieldMask = r.fieldMask := by
    cases r
    case status => exact absurd rfl hr
    all_goals rfl
  have hramp : (n = 6 ∧ v.extractLsb' 0 3 ∉ [0b000#3, 0b001#3, 0b010#3, 0b110#3]) ↔
      r = .rampType ∧ legalRamp v = false :=
    and_congr (index_toNat_eq_iff r .rampType) (legalRamp_eq_false_iff v).symm
  have hdivisor : (n = 4 ∧ v = 0) ↔ r = .timeDivisor ∧ v = 0 :=
    and_congr_left' (index_toNat_eq_iff r .timeDivisor)
  have hduration : (n = 5 ∧ v = 0) ↔ r = .durationMs ∧ v = 0 :=
    and_congr_left' (index_toNat_eq_iff r .durationMs)
  rw [exec_regWrite_checks hm hr, if_neg hbad, hmask]
  refine congrArg _ <|
    if_congr hinactive.symm (raise_eq_faultedWith s .noActiveCue) <|
    if_congr .rfl (raise_eq_faultedWith s .illegalValue) <|
    if_congr hramp.symm (raise_eq_faultedWith s .illegalValue) <|
    if_congr hdivisor.symm (raise_eq_faultedWith s .zeroDivisor) <|
    if_congr hduration.symm (raise_eq_faultedWith s .zeroDuration) ?_
  cases r
  case status => exact absurd rfl hr
  case ctrl =>
    rw [writeReg_ctrl_eq_ite]
    exact apply_ite (State.ok · 0) _ _ _
  all_goals rfl

end Sys2Proof.Machine
end

section
/-! PROOFS. Exceptions (60_exceptions.md R220, R225, R226): the cause codes, what a FAULTED block answers to
one command word and to a run of them, and the fault of a Cue field write with no active Cue (R229). -/

namespace Sys2Proof.Machine

/-- Settles O18: both sides are the table of R220. -/
theorem causeCodesAreThoseOfTheTable : Obligations.CauseCodesAreThoseOfTheTable := rfl

/-- Settles O28: in the chain of checks of R201, an index from 2 to 9 passes BAD_REGISTER, and
NO_ACTIVE_CUE comes before every check of the value. -/
theorem cueFieldWriteNeedsAnActiveCue : Obligations.CueFieldWriteNeedsAnActiveCue := by
  intro s idx v hm hinactive hlow hhigh
  have hgood : ¬ (idx.toNat ≥ 10 ∨ idx.toNat = 1) := by omega
  exact (regWriteFollowsItsChecksInOrder s idx v hm).trans
    (congrArg _ ((if_neg hgood).trans (if_pos ⟨hlow, hhigh, hinactive⟩)))

/-! ### Commands in FAULTED mode (R225) -/

/-- Every command but a REG_READ of an implemented index is answered FAULTED in FAULTED mode. -/
theorem exec_of_faulted {s : State} (hm : s.mode = .faulted) {i : Instr}
    (hi : ∀ idx, i = .regRead idx → 10 ≤ idx.toNat) : exec i s = .next s.answeredFaulted := by
  cases i
  case regRead idx =>
    have hnone : RegName.ofIndex idx = none := (ofIndex_eq_none_iff idx).2 (hi idx rfl)
    simp only [exec, execRegRead, hnone]
    exact inRun_of_faulted hm _
  all_goals exact inRun_of_faulted hm _

/-- Settles O20: a REG_READ of an implemented index makes no mode check, every other command makes it
first, and so does the rejection of a word that does not decode. -/
theorem faultedModeExecutesOnlyRegRead : Obligations.FaultedModeExecutesOnlyRegRead := by
  intro s w rest hm hp
  refine ⟨fun idx r hd hr => ?_, fun hother => ?_⟩
  · exact (stepRunsTheDecodedCommand s w rest _ hp hd).trans
      (exec_regRead_of_ofIndex { s with pending := rest } hr)
  · cases hd : decode w with
    | error e => exact step_of_decode_error_of_faulted hm hp hd
    | ok i =>
      have hi : ∀ idx, i = .regRead idx → 10 ≤ idx.toNat := fun idx h => hother idx (h ▸ hd)
      exact (stepRunsTheDecodedCommand s w rest i hp hd).trans
        (exec_of_faulted (s := { s with pending := rest }) hm hi)

/-! ### Runs in FAULTED mode (R226, R256) -/

/-- A FAULTED block takes a command word off the port and adds a response that is no new fault; nothing
else changes. -/
theorem step_of_faulted {s : State} {w : Word64} {rest : List HostAction} (hm : s.mode = .faulted)
    (hp : s.pending = .command w :: rest) :
    ∃ r : Response, r.status ≠ .fault ∧
      step s = .next { s with pending := rest, responses := s.responses ++ [r] } := by
  obtain ⟨hread, hother⟩ := faultedModeExecutesOnlyRegRead s w rest hm hp
  by_cases h : ∀ idx, decode w = .ok (.regRead idx) → 10 ≤ idx.toNat
  · exact ⟨⟨.faulted, _⟩, nofun, hother h⟩
  · push Not at h
    obtain ⟨idx, hd, hidx⟩ := h
    obtain ⟨r, hr⟩ := exists_ofIndex_of_le (Nat.le_of_lt_succ hidx)
    exact ⟨⟨.ok, _⟩, nofun, hread idx r hd hr⟩

/-- A run of a FAULTED block over a stream adds one response a word, none of them a new fault; nothing else
changes. -/
theorem runSteps_of_faulted (ws : List Word64) {s : State} (hm : s.mode = .faulted) :
    ∃ answers : List Response, answers.length = ws.length ∧ (∀ r ∈ answers, r.status ≠ .fault) ∧
      runSteps ws.length (s.withCommands ws) =
        .next { s with pending := [], responses := s.responses ++ answers } := by
  induction ws generalizing s with
  | nil => exact ⟨[], rfl, nofun, by rw [List.append_nil]; rfl⟩
  | cons w ws ih =>
    obtain ⟨r, hr, hstep⟩ := step_of_faulted (s := s.withCommands (w :: ws)) hm rfl
    obtain ⟨answers, hlength, hanswers, hrun⟩ :=
      ih (s := { s with responses := s.responses ++ [r] }) hm
    refine ⟨r :: answers, congrArg (· + 1) hlength, List.forall_mem_cons.2 ⟨hr, hanswers⟩, ?_⟩
    rw [List.append_cons]
    exact (runSteps_succ_of_step ws.length hstep).trans hrun

/-- Settles O21: the run changes the port only. -/
theorem faultIsTerminalUntilReset : Obligations.FaultIsTerminalUntilReset := by
  intro s ws hm
  obtain ⟨answers, hlength, hanswers, hrun⟩ := runSteps_of_faulted ws hm
  exact ⟨_, answers, hrun, rfl, ⟨rfl, rfl, rfl, rfl⟩, rfl, hlength, hanswers⟩

end Sys2Proof.Machine
end

section
/-! PROOFS. Reset and deactivation (70_reset_and_hazards.md R250, R251, R255): what a reset leaves, that
nothing else leaves FAULTED mode, and that a CTRL write of 1 gives back no Cue that a write of 0 discarded. -/

namespace Sys2Proof.Machine

/-! ### Reset (R250, R251) -/

/-- A reset action is taken in every state, with the action off the port. -/
theorem step_of_reset {s : State} {rest : List HostAction} (hp : s.pending = .reset :: rest) :
    step s = .next (State.hostReset { s with pending := rest }) := by
  rcases step_cases s with ⟨hp', -⟩ | ⟨rest', hp', hstep⟩ | ⟨_, _, _, hp', -⟩ | ⟨_, _, _, hp', -⟩ <;>
    cases hp.symm.trans hp'
  exact hstep

/-- A reset block is the reset state's, whatever stands on its port (R251). -/
theorem hostReset_sameBlock (s : State) : SameBlock s.hostReset State.reset :=
  ⟨rfl, rfl, rfl, rfl⟩

/-- A step of a FAULTED block takes a reset or leaves it FAULTED (R226). -/
theorem step_reset_or_faulted {s t : State} (hm : s.mode = .faulted) (hstep : step s = .next t) :
    (∃ rest, s.pending = .reset :: rest) ∨ t.mode = .faulted := by
  cases hp : s.pending with
  | nil =>
    cases (withoutACommandTheBlockHolds s hp).symm.trans hstep
    exact .inr hm
  | cons a rest =>
    cases a with
    | reset => exact .inl ⟨rest, rfl⟩
    | command w =>
      obtain ⟨r, -, h⟩ := step_of_faulted hm hp
      cases h.symm.trans hstep
      exact .inr hm

/-- Settles O10: a reset step is `hostReset`, and any other step of a FAULTED block leaves it FAULTED. -/
theorem hostResetSetsEveryStateElement : Obligations.HostResetSetsEveryStateElement := by
  refine ⟨fun s rest hp => ⟨_, step_of_reset hp, ?_⟩, fun s t hm hstep hrun => ?_⟩
  · exact ⟨rfl, rfl, rfl, rfl, rfl, rfl, rfl, rfl, rfl, rfl, rfl, rfl, hostReset_sameBlock _⟩
  · refine (step_reset_or_faulted hm hstep).resolve_right fun hfaulted => ?_
    exact absurd (hrun.symm.trans hfaulted) nofun

/-! ### Deactivation (R255) -/

/-- Settles O31: the write of 0 loads the default Cue and stays in RUN mode, and the write of 1 after it
replaces CTRL only. -/
theorem deactivationDiscardsTheCue : Obligations.DeactivationDiscardsTheCue := by
  intro s hm
  obtain ⟨hwrites, -⟩ := ctrlWriteActivatesOrReloadsTheDefaultCue
  obtain ⟨hdeactivate, -⟩ := hwrites s hm
  obtain ⟨-, hactivate, -⟩ :=
    hwrites (State.answeredOk { s with ctrl := 0, cue := ⟨0xFFF, 0, 1, 1, 0, 0, 0, 0⟩ } 0) hm
  exact ⟨_, _, hdeactivate, rfl, hactivate, rfl, rfl⟩

end Sys2Proof.Machine
end
